-- ==== Sys2Proof/Word.lean ====
section
/-! DEFINITION. The word types: the byte of the link and the 24-bit frame word.
Spec: 00_scope.md section 5 (all quantities are unsigned), 30_encoding.md R50. -/

namespace Sys2Proof

/-- A byte of the link, `b[7:0]`, bit 0 the least significant. -/
abbrev Byte := BitVec 8

/-- The frame word `F[23:0] = op ‖ tgt ‖ val` (00_scope.md section 5, D4). -/
abbrev FrameWord := BitVec 24

end Sys2Proof
end

