-- ==== Sys2Proof/Syntax.lean ====
section
/-! DEFINITION. The syntax of the instruction set: one constructor per row of spec/opcode_table.json
(30_encoding.md R51), and the 3-byte frame that carries an instruction (R50). -/

namespace Sys2Proof

/-- A frame `(op, tgt, val)`: three bytes in arrival order (30_encoding.md R50, 20_memory.md R33). -/
structure Frame where
  op  : Byte
  tgt : Byte
  val : Byte
deriving DecidableEq, Repr

/-- The instructions (30_encoding.md R51). Every byte is a legal content of `tgt` and of `val` as far as the
encoding goes; whether it names a register or a colour is the handler's operand check (40_dispatch.md R74).
Unused fields are kept, so that encoding loses no bit. -/
inductive Instr where
  /-- PWM 0x01: `tgt` = channel, `val` = duty scale (41_pwm.md R85). -/
  | pwm (tgt val : Byte)
  /-- DIGITAL 0x02: `tgt` = pin tag, `val` = boolean (42_digital.md R90). -/
  | digital (tgt val : Byte)
  /-- SERVO 0x03: `tgt` unused, `val` = angle (43_servo.md R95). -/
  | servo (tgt val : Byte)
  /-- NEOPIXEL 0x04: `tgt` unused, `val` = colour code (44_neopixel.md R100). -/
  | neopixel (tgt val : Byte)
  /-- PING 0xF0: both fields unused (45_system.md R105). -/
  | ping (tgt val : Byte)
  /-- RESET 0xFF: both fields unused (45_system.md R106). -/
  | reset (tgt val : Byte)
  /-- ILLEGAL: the default row, with the opcode byte that no other row matches (45_system.md R107). -/
  | illegal (op tgt val : Byte)
deriving DecidableEq, Repr

end Sys2Proof
end

