-- ==== Sys2Proof/WellFormed.lean ====
section
/-! DEFINITION. Which terms of `Instr` stand for a frame. The one condition the encoding puts on a term is that
ILLEGAL carries none of the six defined opcodes (45_system.md R107, 30_encoding.md R54). -/

namespace Sys2Proof

/-- The six opcode bytes of 30_encoding.md R51. -/
def definedOpcodes : List Byte := [0x01, 0x02, 0x03, 0x04, 0xF0, 0xFF]

/-- "any frame whose opcode byte is not 0x01, 0x02, 0x03, 0x04, 0xF0 or 0xFF" (R107). The other constructors
admit every byte in both fields: an invalid target or an unmatched colour is a frame, answered with ERROR. -/
def Instr.wellFormed : Instr → Bool
  | .pwm _ _ => true
  | .digital _ _ => true
  | .servo _ _ => true
  | .neopixel _ _ => true
  | .ping _ _ => true
  | .reset _ _ => true
  | .illegal op _ _ => !definedOpcodes.contains op

end Sys2Proof
end

