-- ==== Sys2Proof/Decode.lean ====
section
/-! DEFINITION. The encoding: frame words, the opcode map, the decoder and the encoder, all read from the one
opcode map of 30_encoding.md R51. -/

namespace Sys2Proof

/-- The frame word `F = op ‖ tgt ‖ val`, the first byte most significant (00_scope.md section 5). -/
def Frame.word (f : Frame) : FrameWord := f.op ++ f.tgt ++ f.val

/-- The fields of a frame word: `op = F[23:16]`, `tgt = F[15:8]`, `val = F[7:0]` (30_encoding.md R50). -/
def Frame.ofWord (w : FrameWord) : Frame :=
  { op := w.extractLsb' 16 8, tgt := w.extractLsb' 8 8, val := w.extractLsb' 0 8 }

/-- The bytes of a frame in arrival order: opcode, target, value (20_memory.md R33). -/
def Frame.bytes (f : Frame) : List Byte := [f.op, f.tgt, f.val]

/-- The six defined opcodes by name (30_encoding.md R51). -/
inductive Opcode where
  | pwm | digital | servo | neopixel | ping | reset
deriving DecidableEq, Repr

/-- The opcode map: "PWM=0x01, DIGITAL=0x02, SERVO=0x03, NEOPIXEL=0x04, PING=0xF0, RESET=0xFF" (R51). -/
def Opcode.byte : Opcode → Byte
  | .pwm => 0x01
  | .digital => 0x02
  | .servo => 0x03
  | .neopixel => 0x04
  | .ping => 0xF0
  | .reset => 0xFF

def Opcode.all : List Opcode := [.pwm, .digital, .servo, .neopixel, .ping, .reset]

/-- Opcode decode: the whole byte compared for equality with the six opcodes; `none` selects ILLEGAL
(40_dispatch.md R74, 30_encoding.md R51). -/
def opcodeOf? (b : Byte) : Option Opcode := Opcode.all.find? fun o => o.byte == b

/-- The instruction a complete frame stands for. Total: every frame has a handler (40_dispatch.md R74). -/
def decodeFrame (f : Frame) : Instr :=
  match opcodeOf? f.op with
  | some .pwm => .pwm f.tgt f.val
  | some .digital => .digital f.tgt f.val
  | some .servo => .servo f.tgt f.val
  | some .neopixel => .neopixel f.tgt f.val
  | some .ping => .ping f.tgt f.val
  | some .reset => .reset f.tgt f.val
  | none => .illegal f.op f.tgt f.val

/-- Why the decoder gives no instruction. -/
inductive DecodeError where
  /-- Fewer than the 3 bytes of a frame: "partial frames must not be interpreted" (10_state.md R12). `held` is
  how many bytes there are. Safe: nothing is executed. -/
  | partialFrame (held : Nat)
deriving DecidableEq, Repr

/-- What the decoder answers: an instruction and the bytes after it, or a rejection by name. -/
inductive DecodeResult where
  | instr (i : Instr) (rest : List Byte)
  | rejected (e : DecodeError)
deriving DecidableEq, Repr

/-- The decoder on a byte stream: always three bytes, whatever the opcode (R50, 40_dispatch.md R72). -/
def decode : List Byte → DecodeResult
  | op :: tgt :: val :: rest => .instr (decodeFrame ⟨op, tgt, val⟩) rest
  | bs => .rejected (.partialFrame bs.length)

/-- The frame of an instruction, from the opcode map of R51 and the format of R50. -/
def Instr.frame : Instr → Frame
  | .pwm tgt val => ⟨Opcode.pwm.byte, tgt, val⟩
  | .digital tgt val => ⟨Opcode.digital.byte, tgt, val⟩
  | .servo tgt val => ⟨Opcode.servo.byte, tgt, val⟩
  | .neopixel tgt val => ⟨Opcode.neopixel.byte, tgt, val⟩
  | .ping tgt val => ⟨Opcode.ping.byte, tgt, val⟩
  | .reset tgt val => ⟨Opcode.reset.byte, tgt, val⟩
  | .illegal op tgt val => ⟨op, tgt, val⟩

/-- The encoder: the three bytes of an instruction in arrival order. -/
def encode (i : Instr) : List Byte := i.frame.bytes

/-- A row of the machine-readable opcode map: `pattern` and `mask` on the frame word, and the row's opcode
(`none` for ILLEGAL). spec/opcode_table.json, 30_encoding.md R51. -/
structure OpcodeRow where
  opcode   : Option Opcode
  pattern  : FrameWord
  mask     : FrameWord
  priority : Nat
deriving DecidableEq, Repr

def OpcodeRow.matchesWord (r : OpcodeRow) (w : FrameWord) : Bool := w &&& r.mask == r.pattern

/-- The seven rows of spec/opcode_table.json in the order they are tried: ILLEGAL has priority 1, after the six
of priority 0. -/
def opcodeTable : List OpcodeRow :=
  [ ⟨some .pwm,      0x010000, 0xFF0000, 0⟩,
    ⟨some .digital,  0x020000, 0xFF0000, 0⟩,
    ⟨some .servo,    0x030000, 0xFF0000, 0⟩,
    ⟨some .neopixel, 0x040000, 0xFF0000, 0⟩,
    ⟨some .ping,     0xF00000, 0xFF0000, 0⟩,
    ⟨some .reset,    0xFF0000, 0xFF0000, 0⟩,
    ⟨none,           0x000000, 0x000000, 1⟩ ]

/-- The opcode whose row an instruction belongs to; `none` for ILLEGAL. -/
def Instr.opcode? : Instr → Option Opcode
  | .pwm _ _ => some .pwm
  | .digital _ _ => some .digital
  | .servo _ _ => some .servo
  | .neopixel _ _ => some .neopixel
  | .ping _ _ => some .ping
  | .reset _ _ => some .reset
  | .illegal _ _ _ => none

/-- The frame whose word, numbered as spec/opcode_table.json numbers it (`op = F[23:16]`, the first byte of the
link most significant), is `w` with every bit from `nbits` up zero (log 17). -/
def tableFrame (nbits w : Nat) : Frame := Frame.ofWord (BitVec.ofNat 24 (w % 2 ^ nbits))

/-- The instruction the decoder reads from a table word, its bytes laid out in arrival order. A word of more
than 24 bits is no instruction of this hardware (R50) and is refused. -/
def decodeTableWord (nbits w : Nat) : Option Instr :=
  if nbits ≤ 24 then
    match decode (tableFrame nbits w).bytes with
    | .instr i _ => some i
    | .rejected _ => none
  else none

end Sys2Proof
end

