-- ==== Sys2Proof/Machine/Regs.lean ====
section
/-! DEFINITION. The output register file: its names (motor channels, digital tags), its banks and their one
read and one write operation. Spec: 10_state.md R14 to R17, 42_digital.md R91. -/

namespace Sys2Proof

/-- The four motor channels, `PWM_DUTY[1..4]` and the motor index of a digital tag (R14, R15). -/
inductive Motor where
  | m1 | m2 | m3 | m4
deriving DecidableEq, Repr

/-- The two polarity terminals of a motor, the low nibble of a digital tag (R15). -/
inductive Terminal where
  | t1 | t2
deriving DecidableEq, Repr

/-- The tag of a digital pin: motor index and polarity terminal (R15). -/
structure Tag where
  motor    : Motor
  terminal : Terminal
deriving DecidableEq, Repr

/-- One value per motor channel. -/
structure MotorBank (α : Type) where
  m1 : α
  m2 : α
  m3 : α
  m4 : α
deriving DecidableEq, Repr

/-- One value per polarity terminal of a motor. -/
structure TerminalPair (α : Type) where
  t1 : α
  t2 : α
deriving DecidableEq, Repr

/-- The fourteen output registers (10_state.md R14 to R17). A digital level is `true` for HIGH (1) and `false`
for LOW (0). `servo` is SERVO_DUTY, `neo` is NEO_RGB with red in bits 23:16, green 15:8, blue 7:0. -/
structure OutRegs where
  pwm   : MotorBank (BitVec 10)
  dig   : MotorBank (TerminalPair Bool)
  servo : BitVec 16
  neo   : BitVec 24
deriving DecidableEq, Repr

namespace Machine

/-- The register index of a channel, 1 to 4: "The index i is the target byte itself" (R14). -/
def motorIndex : Motor → Nat
  | .m1 => 1
  | .m2 => 2
  | .m3 => 3
  | .m4 => 4

/-- The terminal number, 1 or 2 (R15). -/
def terminalIndex : Terminal → Nat
  | .t1 => 1
  | .t2 => 2

/-- The flat index `k = 2*(t[7:4] - 1) + (t[3:0] - 1)` of a digital register (R15, D26). -/
def flatIndex (t : Tag) : Nat := 2 * (motorIndex t.motor - 1) + (terminalIndex t.terminal - 1)

/-- The tag's byte: high nibble the motor index, low nibble the terminal (R15). -/
def tagByte (t : Tag) : Byte := BitVec.ofNat 4 (motorIndex t.motor) ++ BitVec.ofNat 4 (terminalIndex t.terminal)

def bankGet {α : Type} (b : MotorBank α) : Motor → α
  | .m1 => b.m1
  | .m2 => b.m2
  | .m3 => b.m3
  | .m4 => b.m4

def bankSet {α : Type} (b : MotorBank α) (m : Motor) (v : α) : MotorBank α :=
  match m with
  | .m1 => { b with m1 := v }
  | .m2 => { b with m2 := v }
  | .m3 => { b with m3 := v }
  | .m4 => { b with m4 := v }

def pairGet {α : Type} (p : TerminalPair α) : Terminal → α
  | .t1 => p.t1
  | .t2 => p.t2

def pairSet {α : Type} (p : TerminalPair α) (t : Terminal) (v : α) : TerminalPair α :=
  match t with
  | .t1 => { p with t1 := v }
  | .t2 => { p with t2 := v }

/-- Read `PWM_DUTY[m]`. -/
def readPwm (r : OutRegs) (m : Motor) : BitVec 10 := bankGet r.pwm m

/-- Read `DIG[t]`. -/
def readDig (r : OutRegs) (t : Tag) : Bool := pairGet (bankGet r.dig t.motor) t.terminal

/-- `PWM_DUTY[m] <- d`: one register, whole (20_memory.md R37). -/
def putPwm (r : OutRegs) (m : Motor) (d : BitVec 10) : OutRegs := { r with pwm := bankSet r.pwm m d }

/-- `DIG[t] <- b`: one register, whole (R37). -/
def putDig (r : OutRegs) (t : Tag) (b : Bool) : OutRegs :=
  { r with dig := bankSet r.dig t.motor (pairSet (bankGet r.dig t.motor) t.terminal b) }

/-- `SERVO_DUTY <- d`. -/
def putServo (r : OutRegs) (d : BitVec 16) : OutRegs := { r with servo := d }

/-- `NEO_RGB <- c`. -/
def putNeo (r : OutRegs) (c : BitVec 24) : OutRegs := { r with neo := c }

end Machine

end Sys2Proof
end

