-- ==== Sys2Proof/Config.lean ====
section
/-! DEFINITION. The parameters the source leaves open (00_scope.md R5), one field each. Their values are in
Machine/Defaults.lean. T_GRACE has no field: R5 says "not modelled" (it is a time). No free value is needed:
"The block itself has no undefined behaviour in the processor sense" (93_implementation_defined.md). -/

namespace Sys2Proof

/-- SCALE_ROUNDING: the readings of "round" that the spec names (41_pwm.md R86, 43_servo.md R96, U1, U2). -/
inductive Rounding where
  /-- To nearest, an exact half toward plus infinity: the default (D5). -/
  | nearestUp
  /-- To nearest, an exact half to the even neighbour. -/
  | nearestEven
  /-- Truncation. -/
  | floor
deriving DecidableEq, Repr

/-- RESET_RX_POLICY: fate of the bytes sent but not yet accepted when reset happens (R142). -/
inductive RxPolicy where
  /-- All are lost. -/
  | flush
  /-- All are delivered after reset. -/
  | keep
  /-- An arbitrary number of the oldest are lost and the rest delivered: the default (D11). -/
  | any
deriving DecidableEq, Repr

/-- BOOT_ANNOUNCE: whether READY (0xAA) is emitted after reset (R143). -/
inductive BootAnnounce where
  | none
  | ready
deriving DecidableEq, Repr

/-- PIN_MAP: the physical pin of each PWM channel and of each digital tag (20_memory.md R32, D25). -/
structure PinMap where
  pwm : MotorBank Nat
  dig : MotorBank (TerminalPair Nat)
deriving DecidableEq, Repr

/-- The parameters of 00_scope.md R5. -/
structure Params where
  /-- SCALE_ROUNDING. -/
  scaleRounding : Rounding
  /-- NEO_LEVEL: intensity of a lit colour component (44_neopixel.md R101). -/
  neoLevel      : Byte
  /-- RESET_VALUES: value of every output register after reset (10_state.md R24). -/
  resetValues   : OutRegs
  /-- RESET_RX_POLICY. -/
  resetRxPolicy : RxPolicy
  /-- BOOT_ANNOUNCE. -/
  bootAnnounce  : BootAnnounce
  /-- RX_DEPTH: bytes the transport can hold before the block accepts them; `none` = unbounded (R45). -/
  rxDepth       : Option Nat
  /-- PIN_MAP. -/
  pinMap        : PinMap
deriving DecidableEq, Repr

end Sys2Proof
end

