-- ==== Sys2Proof/Machine/Defaults.lean ====
section
/-! DEFINITION. The default values of the parameters, from the table of 00_scope.md R5. Each is the spec's own
choice (92_eei_decisions.md D5, D8, D9, D11, D12, D13, D25) and is logged: log 4 and the entries it names. -/

namespace Sys2Proof.Machine

/-- "all registers zero" (R5, R24). DESIGN CHOICE of the spec, log 8; unsafe. -/
def zeroRegs : OutRegs :=
  { pwm := ⟨0, 0, 0, 0⟩
    dig := ⟨⟨false, false⟩, ⟨false, false⟩, ⟨false, false⟩, ⟨false, false⟩⟩
    servo := 0
    neo := 0 }

/-- "identity on register index" (R5): the channel number of a PWM register, the flat index of a digital one. -/
def identityPins : PinMap :=
  { pwm := ⟨1, 2, 3, 4⟩, dig := ⟨⟨0, 1⟩, ⟨2, 3⟩, ⟨4, 5⟩, ⟨6, 7⟩⟩ }

/-- The defaults of 00_scope.md R5. -/
def defaultParams : Params :=
  { scaleRounding := .nearestUp
    neoLevel := 0xFF
    resetValues := zeroRegs
    resetRxPolicy := .any
    bootAnnounce := .none
    rxDepth := none
    pinMap := identityPins }

end Sys2Proof.Machine
end

