-- ==== Sys2Proof/Machine/State.lean ====
section
/-! DEFINITION. The state of the machine: the tuple of 10_state.md R10 with its traces (R18) and ghost counters
(R27), the transport's waiting bytes, the environment's turns and the parameters. Plain data throughout. -/

namespace Sys2Proof.Machine

/-- FCNT (10_state.md R11): how many bytes of the current frame are accepted. "The value 3 never occurs": the
three values are the three constructors (log 1). -/
inductive FrameCount where
  /-- FCNT = 0: the next byte is an opcode. -/
  | zero
  /-- FCNT = 1: opcode held, the next byte is a target. -/
  | one
  /-- FCNT = 2: opcode and target held, the next byte is a value and completes the frame. -/
  | two
deriving DecidableEq, Repr

/-- RUN (10_state.md R13). -/
inductive RunState where
  | running
  | restartPending
deriving DecidableEq, Repr

/-- The causes of ProtocolError (60_exceptions.md R120). "The names of the causes ... exist only in this spec and in
the model's event trace" (R121). -/
inductive ErrorCause where
  | unknownOpcode | invalidPwmTarget | invalidDigitalTarget | unmatchedNeopixelValue
deriving DecidableEq, Repr

/-- The events of the trace EV (10_state.md R18). -/
inductive Event where
  /-- `Write(PWM_DUTY[m], d)` -/
  | writePwm (m : Motor) (d : BitVec 10)
  /-- `Write(DIG[t], b)` -/
  | writeDig (t : Tag) (b : Bool)
  /-- `Write(SERVO_DUTY, d)` -/
  | writeServo (d : BitVec 16)
  /-- `Write(NEO_RGB, c)` -/
  | writeNeo (c : BitVec 24)
  /-- `Resp(b)`; where the response is that of an error, `cause` is the name of the error's cause, which stands
  nowhere else (60_exceptions.md R121, log 16). -/
  | resp (b : Byte) (cause : Option ErrorCause)
  /-- `RestartReq` -/
  | restartReq
deriving DecidableEq, Repr

/-- Who moves in a step (log 2; 00_scope.md R6, 70_reset_and_hazards.md R161). -/
inductive Turn where
  /-- The block polls the transport and accepts the offered byte, if there is one and RUN = RUNNING. -/
  | block
  /-- The host sends a byte into the transport. -/
  | send (b : Byte)
  /-- `rst` is asserted (R140). `lost` is how many of the oldest waiting bytes are lost where RESET_RX_POLICY
  is `any` (R142); the other policies do not read it. -/
  | rst (lost : Nat)
deriving DecidableEq, Repr

/-- The state. -/
structure State where
  /-- The parameters of 00_scope.md R5, constants of one machine: no step writes them (log 4). -/
  params  : Params
  /-- FCNT (R11). -/
  fcnt    : FrameCount
  /-- F_OP (R12). -/
  fOp     : Byte
  /-- F_TGT (R12). -/
  fTgt    : Byte
  /-- RUN (R13). -/
  run     : RunState
  /-- PWM_DUTY, DIG, SERVO_DUTY, NEO_RGB (R14 to R17). -/
  out     : OutRegs
  /-- TX: the response bytes emitted since reset, oldest first (R18). -/
  tx      : List Byte
  /-- EV: the events since reset, oldest first (R18). -/
  ev      : List Event
  /-- NBYTES: bytes accepted since reset (R27). -/
  nbytes  : Nat
  /-- NFRAMES: frames executed since reset (R27). -/
  nframes : Nat
  /-- The bytes the transport holds, oldest first (20_memory.md R45); the model's own field, log 3. -/
  rx      : List Byte
  /-- Who moves in the coming steps, soonest first; when it is empty the block moves. The model's own, log 2. -/
  sched   : List Turn
deriving DecidableEq, Repr

/-- The reasons a step stops with a fault: none. "no crash" (60_exceptions.md R120), "a register write cannot
fail and a response cannot be refused" (R123); an error is a response, not a stop (R122). Safe: there is
nothing that could stop where the hardware goes on. -/
inductive Fault where
deriving DecidableEq, Repr

/-- The reasons a step is refused. -/
inductive Refusal where
  /-- Raised by an arm of `exec` whose instruction has no meaning yet; no arm does. Safe: the machine stops. -/
  | notModelled (mnemonic : String)
deriving DecidableEq, Repr

/-- The machine right after reset with the default parameters (10_state.md R24, 70_reset_and_hazards.md R141).
The register values are the spec's DESIGN CHOICE D9 (log 8); TX and EV are empty because BOOT_ANNOUNCE is
`none` by default (log 12); nothing waits in the transport (log 3). -/
def State.reset : State :=
  { params := defaultParams
    fcnt := .zero
    fOp := 0x00
    fTgt := 0x00
    run := .running
    out := zeroRegs
    tx := []
    ev := []
    nbytes := 0
    nframes := 0
    rx := []
    sched := [] }

end Sys2Proof.Machine
end

