-- ==== Sys2Proof/Machine/Flags.lean ====
section
/-! DEFINITION. This hardware has no flags (10_state.md R21): "The only record of an outcome is the response byte
in TX". This file holds what stands in their place: the seven responses (30_encoding.md R57). -/

namespace Sys2Proof.Machine

/-- The responses of 30_encoding.md R57. READY is also called PONG. -/
inductive Response where
  | ready | pwmOk | digitalOk | servoOk | neopixelOk | resetOk | error
deriving DecidableEq, Repr

/-- "READY(0xAA==PONG), PWM_OK(0x01), DIGITAL_OK(0x02), SERVO_OK(0x03), NEOPIXEL_OK(0x04), RESET_OK(0xBB),
ERROR(0xEE)" (R57). -/
def responseByte : Response → Byte
  | .ready => 0xAA
  | .pwmOk => 0x01
  | .digitalOk => 0x02
  | .servoOk => 0x03
  | .neopixelOk => 0x04
  | .resetOk => 0xBB
  | .error => 0xEE

end Sys2Proof.Machine
end

