-- ==== Sys2Proof/Machine/Operands.lean ====
section
/-! DEFINITION. Every operand form: the target decoding of PWM and DIGITAL, the palette of NEOPIXEL, the two
rescales; and the operand check each handler makes (30_encoding.md R52, R53; 40_dispatch.md R74). -/

namespace Sys2Proof.Machine

/-- The motor with a given index, 1 to 4. -/
def motorOf? : Nat → Option Motor
  | 1 => some .m1
  | 2 => some .m2
  | 3 => some .m3
  | 4 => some .m4
  | _ => none

/-- The terminal with a given number, 1 or 2. -/
def terminalOf? : Nat → Option Terminal
  | 1 => some .t1
  | 2 => some .t2
  | _ => none

/-- PWM's target: valid when it is 0x01 to 0x04, "and then is the channel number itself" (R52). -/
def pwmTarget? (tgt : Byte) : Option Motor := motorOf? tgt.toNat

/-- DIGITAL's target: `dig_valid(t) = (t[7:4] in {1, 2, 3, 4}) and (t[3:0] in {1, 2})` (42_digital.md R91). -/
def digTarget? (tgt : Byte) : Option Tag :=
  match motorOf? (tgt.extractLsb' 4 4).toNat, terminalOf? (tgt.extractLsb' 0 4).toNat with
  | some m, some t => some ⟨m, t⟩
  | _, _ => none

/-- DIGITAL's value: 0x00 is LOW, every other byte HIGH (R53, R90). -/
def digLevel (val : Byte) : Bool := val != 0x00

/-- The five colours of the palette (44_neopixel.md R101). -/
inductive Colour where
  | black | red | green | blue | white
deriving DecidableEq, Repr

/-- NEOPIXEL's value: "0x00:black,0x01:red,0x02:green,0x03:blue,0xFF:white"; no other byte is matched (R100). -/
def colourOf? (val : Byte) : Option Colour :=
  if val = 0x00 then some .black
  else if val = 0x01 then some .red
  else if val = 0x02 then some .green
  else if val = 0x03 then some .blue
  else if val = 0xFF then some .white
  else none

/-- `palette`: r ‖ g ‖ b with every lit component at NEO_LEVEL (R101). DESIGN CHOICE of the spec, D8, log 7. -/
def colourRgb (level : Byte) : Colour → BitVec 24
  | .black => 0#8 ++ 0#8 ++ 0#8
  | .red => level ++ 0#8 ++ 0#8
  | .green => 0#8 ++ level ++ 0#8
  | .blue => 0#8 ++ 0#8 ++ level
  | .white => level ++ level ++ level

/-- The quotient `num / den` rounded as SCALE_ROUNDING says (41_pwm.md R86, 43_servo.md R96; log 5). -/
def roundedDiv (r : Rounding) (num den : Nat) : Nat :=
  match r with
  | .nearestUp => (2 * num + den) / (2 * den)
  | .nearestEven =>
    if 2 * (num % den) < den then num / den
    else if den < 2 * (num % den) then num / den + 1
    else num / den + num / den % 2
  | .floor => num / den

/-- `pwm_scale(v)`: v * 1023 / 255 rounded (R86). With `nearestUp` it is `(2046 * v + 255) div 510`. -/
def pwmScale (r : Rounding) (val : Byte) : BitVec 10 := BitVec.ofNat 10 (roundedDiv r (1023 * val.toNat) 255)

/-- `servo_scale(v)`: 1638 + v * 6554 / 180 rounded (R96). With `nearestUp` it is
`1638 + (6554 * v + 90) div 180`. Values 181 to 255 take the same formula (R97; DESIGN CHOICE of the spec, D6,
log 6). -/
def servoScale (r : Rounding) (val : Byte) : BitVec 16 :=
  BitVec.ofNat 16 (1638 + roundedDiv r (6554 * val.toNat) 180)

/-- The error a frame raises, if any: the table of 60_exceptions.md R120. -/
def errorCause? : Instr → Option ErrorCause
  | .pwm tgt _ => if (pwmTarget? tgt).isSome then none else some .invalidPwmTarget
  | .digital tgt _ => if (digTarget? tgt).isSome then none else some .invalidDigitalTarget
  | .servo _ _ => none
  | .neopixel _ val => if (colourOf? val).isSome then none else some .unmatchedNeopixelValue
  | .ping _ _ => none
  | .reset _ _ => none
  | .illegal _ _ _ => some .unknownOpcode

/-- The response to a frame that raises no error (30_encoding.md R57); ILLEGAL has none. -/
def okResponse : Instr → Response
  | .pwm _ _ => .pwmOk
  | .digital _ _ => .digitalOk
  | .servo _ _ => .servoOk
  | .neopixel _ _ => .neopixelOk
  | .ping _ _ => .ready
  | .reset _ _ => .resetOk
  | .illegal _ _ _ => .error

/-- The one response of a frame (R57, 40_dispatch.md R76), as a function of the frame alone. -/
def responseOf (i : Instr) : Response :=
  match errorCause? i with
  | some _ => .error
  | none => okResponse i

end Sys2Proof.Machine
end

