-- ==== Sys2Proof/Machine/Ops.lean ====
section
/-! DEFINITION. The named operations over the state, the pseudocode primitives of 00_scope.md section 5. There is
no memory and no program counter (20_memory.md R30, 10_state.md R20), so no operation reads or writes one. -/

namespace Sys2Proof.Machine

/-- `NFRAMES <- NFRAMES + 1`, the first line of `execute` (40_dispatch.md R77). -/
def countFrame (s : State) : State := { s with nframes := s.nframes + 1 }

/-- Append an event to EV (10_state.md R18). -/
def recordEvent (e : Event) (s : State) : State := { s with ev := s.ev ++ [e] }

/-- The response byte of a `Resp` event; TX is "the projection of EV on Resp events" (R18). -/
def respByte? : Event → Option Byte
  | .resp b _ => some b
  | _ => none

/-- Whether an event is a `Write`, the write strobe of a register (R18). -/
def isWrite : Event → Bool
  | .writePwm _ _ => true
  | .writeDig _ _ => true
  | .writeServo _ => true
  | .writeNeo _ => true
  | .resp _ _ => false
  | .restartReq => false

/-- Emit one response byte: append it to TX and `Resp` of it to EV, with the name of the cause if it reports an
error. A response is always taken (R19, D14, log 13). -/
def emitResponse (r : Response) (cause : Option ErrorCause) (s : State) : State :=
  recordEvent (.resp (responseByte r) cause) { s with tx := s.tx ++ [responseByte r] }

/-- `respond(b)`, the response of a frame that raises no error. -/
def respond (r : Response) (s : State) : State := emitResponse r none s

/-- `PWM_DUTY[m] <- d ; write_event(PWM_DUTY[m], d)`. The event is recorded even when the value held is `d`
(R18). -/
def writePwm (m : Motor) (d : BitVec 10) (s : State) : State :=
  recordEvent (.writePwm m d) { s with out := putPwm s.out m d }

/-- `DIG[t] <- b ; write_event(DIG[t], b)`. -/
def writeDig (t : Tag) (b : Bool) (s : State) : State :=
  recordEvent (.writeDig t b) { s with out := putDig s.out t b }

/-- `SERVO_DUTY <- d ; write_event(SERVO_DUTY, d)`. -/
def writeServo (d : BitVec 16) (s : State) : State :=
  recordEvent (.writeServo d) { s with out := putServo s.out d }

/-- `NEO_RGB <- c ; write_event(NEO_RGB, c)`: setColor then show. -/
def writeNeo (c : BitVec 24) (s : State) : State :=
  recordEvent (.writeNeo c) { s with out := putNeo s.out c }

/-- TAKING AN ERROR, `raise ProtocolError(cause)`: "emit the one response byte 0xEE, write no register, raise no
write strobe, leave RUN = RUNNING, and finish the frame" (60_exceptions.md R122). The name of the cause goes into the
model's event trace and nowhere else: there is no cause register, counter or sticky flag (R121, log 16). There is
no handler and no return (R126, R127). -/
def protocolError (cause : ErrorCause) (s : State) : State := emitResponse .error (some cause) s

/-- `restart_request()`: "append the event RestartReq to EV and set RUN <- RESTART_PENDING" (45_system.md R106). -/
def restartRequest (s : State) : State := recordEvent .restartReq { s with run := .restartPending }

end Sys2Proof.Machine
end

