-- ==== Sys2Proof/Machine/Digital.lean ====
section
/-! DEFINITION. The meaning of DIGITAL (42_digital.md R90 to R92). -/

namespace Sys2Proof.Machine

/-- DIGITAL: if `tgt` is one of the eight tags, its register is written with `val != 0` and the response is
DIGITAL_OK; otherwise nothing is written and the response is ERROR (R90). -/
def execDigital (tgt val : Byte) (s : State) : Host.Outcome State Fault Refusal :=
  match digTarget? tgt with
  | some t => .next (respond .digitalOk (writeDig t (digLevel val) (countFrame s)))
  | none => .next (protocolError .invalidDigitalTarget (countFrame s))

end Sys2Proof.Machine
end

