-- ==== Sys2Proof/Machine/Neopixel.lean ====
section
/-! DEFINITION. The meaning of NEOPIXEL (44_neopixel.md R100 to R102). -/

namespace Sys2Proof.Machine

/-- NEOPIXEL: if `val` is one of the five codes, the colour is written and shown and the response is
NEOPIXEL_OK; otherwise the register keeps its value and the response is ERROR (R100). The target is unused and
ignored. -/
def execNeopixel (_tgt val : Byte) (s : State) : Host.Outcome State Fault Refusal :=
  match colourOf? val with
  | some c => .next (respond .neopixelOk (writeNeo (colourRgb s.params.neoLevel c) (countFrame s)))
  | none => .next (protocolError .unmatchedNeopixelValue (countFrame s))

end Sys2Proof.Machine
end

