-- ==== Sys2Proof/Machine/Pwm.lean ====
section
/-! DEFINITION. The meaning of PWM (41_pwm.md R85 to R87). -/

namespace Sys2Proof.Machine

/-- PWM: if `tgt` is a channel, the rescaled value is written to its register and the response is PWM_OK;
otherwise nothing is written and the response is ERROR (R85). The value is never checked (R87). -/
def execPwm (tgt val : Byte) (s : State) : Host.Outcome State Fault Refusal :=
  match pwmTarget? tgt with
  | some m => .next (respond .pwmOk (writePwm m (pwmScale s.params.scaleRounding val) (countFrame s)))
  | none => .next (protocolError .invalidPwmTarget (countFrame s))

end Sys2Proof.Machine
end

