-- ==== Sys2Proof/Machine/Servo.lean ====
section
/-! DEFINITION. The meaning of SERVO (43_servo.md R95 to R97). -/

namespace Sys2Proof.Machine

/-- SERVO: the rescaled value is written unconditionally and the response is always SERVO_OK (R95). The target
is unused and ignored. -/
def execServo (_tgt val : Byte) (s : State) : Host.Outcome State Fault Refusal :=
  .next (respond .servoOk (writeServo (servoScale s.params.scaleRounding val) (countFrame s)))

end Sys2Proof.Machine
end

