-- ==== Sys2Proof/Machine/System.lean ====
section
/-! DEFINITION. The meanings of PING, RESET and ILLEGAL (45_system.md R105 to R107). -/

namespace Sys2Proof.Machine

/-- PING: "always responds READY, no state change" (R105). -/
def execPing (_tgt _val : Byte) (s : State) : Host.Outcome State Fault Refusal :=
  .next (respond .ready (countFrame s))

/-- RESET: respond RESET_OK, then request the restart; the output registers keep their values (R106). The
restart itself is the supervisor's `rst` (R108). -/
def execReset (_tgt _val : Byte) (s : State) : Host.Outcome State Fault Refusal :=
  .next (restartRequest (respond .resetOk (countFrame s)))

/-- ILLEGAL: "ERROR, no state change" (R107). -/
def execIllegal (_op _tgt _val : Byte) (s : State) : Host.Outcome State Fault Refusal :=
  .next (protocolError .unknownOpcode (countFrame s))

end Sys2Proof.Machine
end

