-- ==== Sys2Proof/Machine/Dispatch.lean ====
section
/-! DEFINITION. `execute` of 40_dispatch.md R77: one arm per instruction. It "reads nothing of the state" to
choose, and is called only when RUN = RUNNING (Machine/Step.lean). -/

namespace Sys2Proof.Machine

def exec (i : Instr) (s : State) : Host.Outcome State Fault Refusal :=
  match i with
  | .pwm tgt val => Sys2Proof.Machine.execPwm tgt val s
  | .digital tgt val => Sys2Proof.Machine.execDigital tgt val s
  | .servo tgt val => Sys2Proof.Machine.execServo tgt val s
  | .neopixel tgt val => Sys2Proof.Machine.execNeopixel tgt val s
  | .ping tgt val => Sys2Proof.Machine.execPing tgt val s
  | .reset tgt val => Sys2Proof.Machine.execReset tgt val s
  | .illegal op tgt val => Sys2Proof.Machine.execIllegal op tgt val s

end Sys2Proof.Machine
end

