-- ==== Sys2Proof/Machine/Environment.lean ====
section
/-! DEFINITION. The turns of the environment: the host sending a byte, and reset
(70_reset_and_hazards.md R140 to R143, R155, R161; 20_memory.md R45). -/

namespace Sys2Proof.Machine

/-- Whose turn it is, and the state with that turn taken off the schedule; with no turn scheduled the block
moves (log 2). -/
def nextTurn (s : State) : Turn × State :=
  match s.sched with
  | [] => (.block, s)
  | t :: ts => (t, { s with sched := ts })

/-- Whether the transport has room for one more byte: RX_DEPTH (R45). -/
def hasRoom (s : State) : Bool :=
  match s.params.rxDepth with
  | none => true
  | some depth => s.rx.length < depth

/-- The host sends a byte: the transport queues it behind the others; with a finite RX_DEPTH and no room the
byte "is lost by the transport without notice" (R155). The block has no part in this. -/
def hostSend (b : Byte) (s : State) : State := if hasRoom s then { s with rx := s.rx ++ [b] } else s

/-- The bytes that survive a reset (R142). -/
def survivors (p : RxPolicy) (lost : Nat) (rx : List Byte) : List Byte :=
  match p with
  | .flush => []
  | .keep => rx
  | .any => rx.drop lost

/-- The emission of READY after reset, if BOOT_ANNOUNCE asks for it (R143). -/
def bootAnnouncement (s : State) : State :=
  match s.params.bootAnnounce with
  | .none => s
  | .ready => respond .ready s

/-- `rst`: every piece of state takes its reset value, whatever was in progress; traces and ghost counters
start again (R141, 10_state.md R24). The parameters are constants; the environment's schedule goes on. -/
def applyRst (lost : Nat) (s : State) : State :=
  bootAnnouncement
    { s with
      fcnt := .zero
      fOp := 0x00
      fTgt := 0x00
      run := .running
      out := s.params.resetValues
      tx := []
      ev := []
      nbytes := 0
      nframes := 0
      rx := survivors s.params.resetRxPolicy lost s.rx }

end Sys2Proof.Machine
end

