-- ==== Sys2Proof/Machine/FrameDecoder.lean ====
section
/-! DEFINITION. The frame_decoder: taking the offered byte from the transport and demultiplexing it by FCNT
(40_dispatch.md R70 to R72). -/

namespace Sys2Proof.Machine

/-- FCNT as a number (10_state.md R11). -/
def frameCountVal : FrameCount → Nat
  | .zero => 0
  | .one => 1
  | .two => 2

/-- The byte accepted in the block's step, with the state it leaves: only when RUN = RUNNING and a byte is
offered; accepting it takes it from the transport and counts NBYTES (R70). -/
def acceptByte? (s : State) : Option (Byte × State) :=
  match s.run, s.rx with
  | .running, b :: rest => some (b, { s with rx := rest, nbytes := s.nbytes + 1 })
  | _, _ => none

/-- What the demultiplexer makes of an accepted byte. -/
inductive Demuxed where
  /-- The byte is only stored. -/
  | held (s : State)
  /-- The byte completes a frame. -/
  | complete (f : Frame) (s : State)
deriving DecidableEq, Repr

/-- Demultiplexing by FCNT (R71). The third byte is not stored: `F_OP` and `F_TGT` keep the frame's first two
bytes, stale from then on (10_state.md R12). -/
def demux (b : Byte) (s : State) : Demuxed :=
  match s.fcnt with
  | .zero => .held { s with fOp := b, fcnt := .one }
  | .one => .held { s with fTgt := b, fcnt := .two }
  | .two => .complete ⟨s.fOp, s.fTgt, b⟩ { s with fcnt := .zero }

end Sys2Proof.Machine
end

