-- ==== Sys2Proof/Machine/Step.lean ====
section
/-! DEFINITION. One step: one accepted byte, or one turn of the environment (40_dispatch.md R70; log 2). -/

namespace Sys2Proof.Machine

/-- The block's turn. With no byte offered, or with RUN = RESTART_PENDING, nothing changes (R70); the third byte
of a frame also executes it, in the same step (R71, R72, R77). -/
def blockTurn (s : State) : Host.Outcome State Fault Refusal :=
  match acceptByte? s with
  | none => .next s
  | some (b, t) =>
    match demux b t with
    | .held u => .next u
    | .complete f u => exec (decodeFrame f) u

/-- One step. The environment's turns change the transport or reset the block; they never run an instruction. -/
def step (s : State) : Host.Outcome State Fault Refusal :=
  match nextTurn s with
  | (.block, t) => blockTurn t
  | (.send b, t) => .next (hostSend b t)
  | (.rst lost, t) => .next (applyRst lost t)

/-- `s` with one instruction placed where the next step takes it: its first two bytes already accepted, its
third byte the next the transport offers, RUN = RUNNING and the block's turn next. NBYTES counts the bytes so
accepted, so that `NBYTES = 3 * NFRAMES + FCNT` (10_state.md R25 (g)) is kept (log 17). -/
def State.withFetchWord (s : State) (nbits w : Nat) : State :=
  { s with
    run := .running
    fcnt := .two
    fOp := (tableFrame nbits w).op
    fTgt := (tableFrame nbits w).tgt
    nbytes := s.nbytes + (2 - frameCountVal s.fcnt)
    rx := (tableFrame nbits w).val :: s.rx
    sched := .block :: s.sched }

end Sys2Proof.Machine
end

