-- ==== Sys2Proof/Machine/Assembler.lean ====
section
/-! DEFINITION. The assembler syntax of the instruction set: the frame a line of operator text stands for
(30_encoding.md R58 to R62). It is the master's encoder, on the other side of the link: no step uses it. Lines
are lists of characters. What the console prints (R63) is out of scope (00_scope.md R3). -/

namespace Sys2Proof.Machine

/-- What one line gives: "zero or one 3-byte frame" (R58, R62). -/
inductive AsmResult where
  /-- One frame is sent. -/
  | frame (f : Frame)
  /-- `status`: "local only", no frame. -/
  | localStatus
  /-- "not recognized", no frame. -/
  | unrecognized
  /-- An empty line "sends nothing and prints nothing" (R61). -/
  | nothing
deriving DecidableEq, Repr

/-- White space between tokens. The spec names no characters: DESIGN CHOICE, log 18. -/
def isSpace (c : Char) : Bool := c == ' ' || c == '\t' || c == '\r' || c == '\n'

/-- The tokens of a line, `acc` being the characters of the token in progress, last first. Leading and trailing
white space gives no token ("trimmed and split at whitespace", R58). -/
def tokensFrom (acc : List Char) : List Char → List (List Char)
  | [] => if acc.isEmpty then [] else [acc.reverse]
  | c :: cs =>
    if isSpace c then
      if acc.isEmpty then tokensFrom [] cs else acc.reverse :: tokensFrom [] cs
    else tokensFrom (c :: acc) cs

def tokens (line : List Char) : List (List Char) := tokensFrom [] line

/-- The value of a decimal digit. -/
def digit? (c : Char) : Option Nat := if 48 ≤ c.toNat ∧ c.toNat ≤ 57 then some (c.toNat - 48) else none

/-- The value of a string of decimal digits read after the digits of `acc`. -/
def decimalFrom (acc : Nat) : List Char → Option Nat
  | [] => some acc
  | c :: cs =>
    match digit? c with
    | some d => decimalFrom (10 * acc + d) cs
    | none => none

/-- A numeric operand: "a non-empty string of decimal digits" (R61, D21). -/
def decimal? (tok : List Char) : Option Nat :=
  match tok with
  | [] => none
  | _ :: _ => decimalFrom 0 tok

/-- "out-of-range numeric values are passed through as raw bytes truncated to 8 bits" (R60). -/
def truncatedByte (n : Nat) : Byte := BitVec.ofNat 8 n

/-- The encoder's pin lookup "{11→0x11,12→0x12,21→0x21,22→0x22,31→0x31,32→0x32,41→0x41,42→0x42}, else p
unchanged" (R59), applied before the truncation (DEDUCED, log 18). -/
def pinLookup (p : Nat) : Nat :=
  match p with
  | 11 => 0x11
  | 12 => 0x12
  | 21 => 0x21
  | 22 => 0x22
  | 31 => 0x31
  | 32 => 0x32
  | 41 => 0x41
  | 42 => 0x42
  | _ => p

/-- `neo`'s operand: the text `ff` is 0xFF, else a decimal number (R58). -/
def neoOperand? (tok : List Char) : Option Nat := if tok = ['f', 'f'] then some 0xFF else decimal? tok

def frameOrUnrecognized (o : Option Frame) : AsmResult :=
  match o with
  | some f => .frame f
  | none => .unrecognized

/-- The rows of R58 by their number of tokens; "a line matches a row only if its first token equals the keyword
exactly (lower case), it has exactly the row's number of tokens, and every numeric operand is a non-empty string
of decimal digits (or, for neo, the text ff)" (R61). -/
def assembleTokens : List (List Char) → AsmResult
  | [] => .nothing
  | [k] =>
    if k = ['p', 'i', 'n', 'g'] then .frame ⟨Opcode.ping.byte, 0x00, 0x00⟩
    else if k = ['r', 'e', 's', 'e', 't'] then .frame ⟨Opcode.reset.byte, 0x00, 0x00⟩
    else if k = ['s', 't', 'a', 't', 'u', 's'] then .localStatus
    else .unrecognized
  | [k, v] =>
    if k = ['s', 'e', 'r', 'v', 'o'] then
      frameOrUnrecognized ((decimal? v).map fun n => ⟨Opcode.servo.byte, 0x00, truncatedByte n⟩)
    else if k = ['n', 'e', 'o'] then
      frameOrUnrecognized ((neoOperand? v).map fun n => ⟨Opcode.neopixel.byte, 0x00, truncatedByte n⟩)
    else .unrecognized
  | [k, p, v] =>
    if k = ['p', 'w', 'm'] then
      frameOrUnrecognized
        ((decimal? p).bind fun m => (decimal? v).map fun n =>
          ⟨Opcode.pwm.byte, truncatedByte m, truncatedByte n⟩)
    else if k = ['d', 'i', 'g', 'i', 't', 'a', 'l'] then
      frameOrUnrecognized
        ((decimal? p).bind fun m => (decimal? v).map fun n =>
          ⟨Opcode.digital.byte, truncatedByte (pinLookup m), truncatedByte n⟩)
    else .unrecognized
  | _ => .unrecognized

/-- The frame of one line of text. -/
def assemble (line : List Char) : AsmResult := assembleTokens (tokens line)

end Sys2Proof.Machine
end

