-- ==== Sys2Proof/Machine/Signals.lean ====
section
/-! DEFINITION. The interface signals of 10_state.md R19, as functions of the state before a step. A level output
is read from the state; a one-step output (strobe, response) from the events the coming step records. They carry
no timing. The names are the spec's choice (D1). -/

namespace Sys2Proof.Machine

/-- `rst`, in: the supervisor or power-on asserts reset in the coming step. -/
def rstIn (s : State) : Bool :=
  match nextTurn s with
  | (.rst _, _) => true
  | _ => false

/-- `rx_valid`, in: the transport offers a byte. -/
def rxValid (s : State) : Bool := !s.rx.isEmpty

/-- `rx_data`, in: the offered byte; no byte is offered where `rx_valid` is 0. -/
def rxData (s : State) : Option Byte := s.rx.head?

/-- `rx_ready`, out: "equals (RUN = RUNNING)". -/
def rxReady (s : State) : Bool := s.run == .running

/-- `restart_req`, out: "equals (RUN = RESTART_PENDING)". -/
def restartReq (s : State) : Bool := s.run == .restartPending

/-- The events of the coming step. A reset starts EV again, so all of the new EV is of that step. -/
def stepEvents (s : State) : List Event :=
  match step s with
  | .next t => if rstIn s then t.ev else t.ev.drop s.ev.length
  | .fault _ => []
  | .refused _ => []

/-- `tx_data`, out: the response byte of the coming step, where there is one. -/
def txData (s : State) : Option Byte := (stepEvents s).findSome? respByte?

/-- `tx_valid`, out: a response byte is emitted in this step. There is no `tx_ready` (D14, log 13). -/
def txValid (s : State) : Bool := (txData s).isSome

/-- `pwm_we[m]`, out: write strobe of `PWM_DUTY[m]`. -/
def pwmWe (s : State) (m : Motor) : Bool :=
  (stepEvents s).any fun e => match e with
    | .writePwm m' _ => m' == m
    | _ => false

/-- `dig_we[k]`, out, for the tag with flat index k: write strobe of `DIG[t]`. -/
def digWe (s : State) (t : Tag) : Bool :=
  (stepEvents s).any fun e => match e with
    | .writeDig t' _ => t' == t
    | _ => false

/-- `servo_we`, out: write strobe of SERVO_DUTY. -/
def servoWe (s : State) : Bool :=
  (stepEvents s).any fun e => match e with
    | .writeServo _ => true
    | _ => false

/-- `neo_show`, out: write strobe of NEO_RGB. -/
def neoShow (s : State) : Bool :=
  (stepEvents s).any fun e => match e with
    | .writeNeo _ => true
    | _ => false

/-- `pwm_duty[m]`, out. -/
def pwmDutyOut (s : State) (m : Motor) : BitVec 10 := readPwm s.out m

/-- The eight tags in the order of 42_digital.md R91, so that the k-th has flat index k. -/
def allTags : List Tag :=
  [⟨.m1, .t1⟩, ⟨.m1, .t2⟩, ⟨.m2, .t1⟩, ⟨.m2, .t2⟩, ⟨.m3, .t1⟩, ⟨.m3, .t2⟩, ⟨.m4, .t1⟩, ⟨.m4, .t2⟩]

/-- `dig[k]`, out, k in 0..7: the level of the tag with flat index k (10_state.md R15); there is no other pin. -/
def digOut (s : State) (k : Nat) : Option Bool := (allTags.find? fun t => flatIndex t == k).map (readDig s.out)

/-- `servo_duty`, out. -/
def servoDutyOut (s : State) : BitVec 16 := s.out.servo

/-- `neo_rgb`, out. -/
def neoRgbOut (s : State) : BitVec 24 := s.out.neo

/-- The physical pin of a PWM channel: PIN_MAP (20_memory.md R32, D25). -/
def pwmPin (s : State) (m : Motor) : Nat := bankGet s.params.pinMap.pwm m

/-- The physical pin of a digital tag: PIN_MAP (R32, D25). -/
def digPin (s : State) (t : Tag) : Nat := pairGet (bankGet s.params.pinMap.dig t.motor) t.terminal

end Sys2Proof.Machine
end

