-- ==== Sys2Proof/Safety.lean ====
section
/-! DEFINITION. The terms the claims are stated in: what every frame leaves alone, what an error frame does, the
registers as the trace of writes leaves them, and the invariants of a run (10_state.md R25). -/

namespace Sys2Proof.Machine

/-- What every instruction leaves unchanged: the frame_decoder, the transport, the schedule, the parameters and
the byte count; it counts one frame (40_dispatch.md R77, 20_memory.md R44). -/
structure KeptByFrame (s t : State) : Prop where
  params  : t.params = s.params
  fcnt    : t.fcnt = s.fcnt
  fOp     : t.fOp = s.fOp
  fTgt    : t.fTgt = s.fTgt
  nbytes  : t.nbytes = s.nbytes
  rx      : t.rx = s.rx
  sched   : t.sched = s.sched
  nframes : t.nframes = s.nframes + 1

/-- `t` is `s` after a frame answered with ERROR: one response 0xEE, no register written, no strobe, RUN kept
(60_exceptions.md R122). Which cause the event is named with is left open here (log 16). -/
structure AnsweredWithError (s t : State) : Prop extends KeptByFrame s t where
  out : t.out = s.out
  run : t.run = s.run
  tx  : t.tx = s.tx ++ [0xEE]
  ev  : ∃ cause, t.ev = s.ev ++ [.resp 0xEE cause]

/-- All registers but `PWM_DUTY[m]` are the same. -/
structure OnlyPwmDiffers (m : Motor) (r r' : OutRegs) : Prop where
  pwm   : ∀ m', m' ≠ m → readPwm r' m' = readPwm r m'
  dig   : ∀ t, readDig r' t = readDig r t
  servo : r'.servo = r.servo
  neo   : r'.neo = r.neo

/-- All registers but `DIG[t]` are the same. -/
structure OnlyDigDiffers (t : Tag) (r r' : OutRegs) : Prop where
  dig   : ∀ t', t' ≠ t → readDig r' t' = readDig r t'
  pwm   : ∀ m, readPwm r' m = readPwm r m
  servo : r'.servo = r.servo
  neo   : r'.neo = r.neo

/-- The register a write event names takes the event's value; the other events change no register. -/
def applyEvent (r : OutRegs) : Event → OutRegs
  | .writePwm m d => putPwm r m d
  | .writeDig t b => putDig r t b
  | .writeServo d => putServo r d
  | .writeNeo c => putNeo r c
  | .resp _ _ => r
  | .restartReq => r

/-- The registers that the writes of a trace leave, from given contents on: each register holds the value of its
last write, or what it held at first (10_state.md R14 to R17). -/
def replay (r : OutRegs) (ev : List Event) : OutRegs := ev.foldl applyEvent r

/-- How many response bytes a reset itself emits: one if BOOT_ANNOUNCE = ready (70_reset_and_hazards.md R143). -/
def announcements (p : Params) : Nat :=
  match p.bootAnnounce with
  | .none => 0
  | .ready => 1

/-- The invariants of 10_state.md R25, with the trace properties of R18 and the register contents of R14 to R17.
Item (a), FCNT in 0..2, holds by the type of FCNT (log 1). -/
structure State.Inv (s : State) : Prop where
  /-- R25 (b). -/
  restartPending : s.run = .restartPending → s.fcnt = .zero
  /-- R25 (c). -/
  pwmDuty : ∀ m, readPwm s.out m = readPwm s.params.resetValues m ∨
    ∃ v, readPwm s.out m = pwmScale s.params.scaleRounding v
  /-- R25 (d). -/
  servoDuty : s.out.servo = s.params.resetValues.servo ∨
    ∃ v, s.out.servo = servoScale s.params.scaleRounding v
  /-- R25 (e). -/
  neoRgb : s.out.neo = s.params.resetValues.neo ∨ ∃ c, s.out.neo = colourRgb s.params.neoLevel c
  /-- R25 (f), with TX the projection of EV (R18). -/
  responses : s.tx.length = s.nframes + announcements s.params
  /-- R18: TX is the projection of EV on `Resp` events. -/
  txOfEv : s.tx = s.ev.filterMap respByte?
  /-- R25 (g). -/
  bytes : s.nbytes = 3 * s.nframes + frameCountVal s.fcnt
  /-- R14 to R17: every register holds the value of its last write since reset, or its reset value. -/
  registers : s.out = replay s.params.resetValues s.ev
  /-- 60_exceptions.md R120, R121: in the trace the responses 0xEE carry the name of a cause, and no others. -/
  causesNamed : ∀ b cause, .resp b cause ∈ s.ev → (cause.isSome ↔ b = 0xEE)
  /-- R13, R18: RestartReq is in the trace exactly when RUN = RESTART_PENDING. -/
  restartRecorded : .restartReq ∈ s.ev ↔ s.run = .restartPending

/-- `k` steps of the machine, stopping at a fault or a refusal: the host's `Core.run`. -/
def runSteps (k : Nat) (s : State) : Host.Outcome State Fault Refusal := Host.Core.run Sys2Proof.core k s

/-- The block and its transport with a byte string offered and no other turn scheduled (40_dispatch.md R79). -/
def State.offered (s : State) (bs : List Byte) : State := { s with rx := bs, sched := [] }

/-- The bytes of the partial frame the block holds, in arrival order (10_state.md R12, 20_memory.md R36). -/
def heldBytes (s : State) : List Byte := [s.fOp, s.fTgt].take (frameCountVal s.fcnt)

/-- Nothing is written, answered or recorded, and RUN stays. -/
structure Silent (s t : State) : Prop where
  out     : t.out = s.out
  tx      : t.tx = s.tx
  ev      : t.ev = s.ev
  run     : t.run = s.run
  nframes : t.nframes = s.nframes

/-- It is the block's turn: no other is scheduled before it. -/
def State.blockMoves (s : State) : Prop := s.sched = [] ∨ ∃ ts, s.sched = .block :: ts

/-- The table of 60_exceptions.md R120: the condition each cause puts on the bytes of a frame. -/
def HasCause (f : Frame) : ErrorCause → Prop
  | .unknownOpcode => f.op ∉ ([0x01, 0x02, 0x03, 0x04, 0xF0, 0xFF] : List Byte)
  | .invalidPwmTarget => f.op = 0x01 ∧ f.tgt ∉ ([0x01, 0x02, 0x03, 0x04] : List Byte)
  | .invalidDigitalTarget =>
    f.op = 0x02 ∧ f.tgt ∉ ([0x11, 0x12, 0x21, 0x22, 0x31, 0x32, 0x41, 0x42] : List Byte)
  | .unmatchedNeopixelValue => f.op = 0x04 ∧ f.val ∉ ([0x00, 0x01, 0x02, 0x03, 0xFF] : List Byte)

/-- A frame that meets one of the four conditions of R120. -/
def IsErrorFrame (f : Frame) : Prop := ∃ cause, HasCause f cause

/-- The bytes of frames one after the other, as a host sends them (70_reset_and_hazards.md R150). -/
def frameBytes (fs : List Frame) : List Byte := fs.flatMap Frame.bytes

/-- The block's own part of the state, without the transport and the schedule: "the tuple" of R10, its traces
and ghost counters are the same. -/
structure SameBlock (s t : State) : Prop where
  params  : t.params = s.params
  fcnt    : t.fcnt = s.fcnt
  fOp     : t.fOp = s.fOp
  fTgt    : t.fTgt = s.fTgt
  run     : t.run = s.run
  out     : t.out = s.out
  tx      : t.tx = s.tx
  ev      : t.ev = s.ev
  nbytes  : t.nbytes = s.nbytes
  nframes : t.nframes = s.nframes

end Sys2Proof.Machine
end

