-- ==== Sys2Proof/Certificates/Slice0/Obligations.lean ====
section
/-! DEFINITION. The statements about the model, for the provers. Each docstring names the rule of spec/ it
formalises, or the section it is derived from. "The model's choice" or "the spec's choice" marks a clause that
rests on a decision and not on the source. -/

open Sys2Proof Sys2Proof.Machine

/-! ## Encoding -/

/-- 30_encoding.md sections 1 and 2: encoding loses no bit. Every well-formed instruction, with every byte in
every field, is read back from its three bytes, whatever follows them. -/
def Obligations.DecodeOfEncode : Prop :=
  ∀ (i : Instr) (rest : List Byte), i.wellFormed = true → decode (encode i ++ rest) = .instr i rest

/-- 30_encoding.md sections 1, 2 and 4: every decoded instruction is well formed and its encoding is the three
bytes it was read from. -/
def Obligations.EncodeOfDecode : Prop :=
  ∀ (bs rest : List Byte) (i : Instr), decode bs = .instr i rest → i.wellFormed = true ∧ encode i ++ rest = bs

/-- 30_encoding.md R51: the opcode map, by the whole opcode byte; the row of the table that the frame word
matches first (by pattern and mask, ILLEGAL last) is the row of the decoded instruction; an unrecognized opcode
is an error. -/
def Obligations.OpcodeByteSelectsInstruction : Prop :=
  ∀ op tgt val : Byte,
    (op = 0x01 → decodeFrame ⟨op, tgt, val⟩ = .pwm tgt val) ∧
    (op = 0x02 → decodeFrame ⟨op, tgt, val⟩ = .digital tgt val) ∧
    (op = 0x03 → decodeFrame ⟨op, tgt, val⟩ = .servo tgt val) ∧
    (op = 0x04 → decodeFrame ⟨op, tgt, val⟩ = .neopixel tgt val) ∧
    (op = 0xF0 → decodeFrame ⟨op, tgt, val⟩ = .ping tgt val) ∧
    (op = 0xFF → decodeFrame ⟨op, tgt, val⟩ = .reset tgt val) ∧
    (op ∉ ([0x01, 0x02, 0x03, 0x04, 0xF0, 0xFF] : List Byte) →
      decodeFrame ⟨op, tgt, val⟩ = .illegal op tgt val ∧
      responseByte (responseOf (decodeFrame ⟨op, tgt, val⟩)) = 0xEE) ∧
    (opcodeTable.find? fun r => r.matchesWord (Frame.word ⟨op, tgt, val⟩)).map (·.opcode) =
      some (decodeFrame ⟨op, tgt, val⟩).opcode?

/-- 95_test_vectors.md sections 1.1, 2.4 and 2.7, 30_encoding.md section 2: the frames of the five scenarios, and one
of each instruction that they leave out, decode to the instructions they stand for, from their bytes and from their
frame words. -/
def Obligations.SpecWordsDecode : Prop :=
  decode [0x01, 0x02, 0x80] = .instr (.pwm 0x02 0x80) [] ∧
  decodeTableWord 24 0x010280 = some (.pwm 0x02 0x80) ∧
  decode [0x02, 0x21, 0x01] = .instr (.digital 0x21 0x01) [] ∧
  decodeTableWord 24 0x022101 = some (.digital 0x21 0x01) ∧
  decode [0x04, 0x00, 0xFF] = .instr (.neopixel 0x00 0xFF) [] ∧
  decodeTableWord 24 0x0400FF = some (.neopixel 0x00 0xFF) ∧
  decode [0x01, 0x09, 0x10] = .instr (.pwm 0x09 0x10) [] ∧
  decodeTableWord 24 0x010910 = some (.pwm 0x09 0x10) ∧
  decode [0xFF, 0x00, 0x00] = .instr (.reset 0x00 0x00) [] ∧
  decodeTableWord 24 0xFF0000 = some (.reset 0x00 0x00) ∧
  decode [0x03, 0x00, 0x5A] = .instr (.servo 0x00 0x5A) [] ∧
  decodeTableWord 24 0x03005A = some (.servo 0x00 0x5A) ∧
  decode [0xF0, 0x01, 0x80] = .instr (.ping 0x01 0x80) [] ∧
  decodeTableWord 24 0xF00180 = some (.ping 0x01 0x80) ∧
  decode [0x77, 0x12, 0x34] = .instr (.illegal 0x77 0x12 0x34) [] ∧
  decodeTableWord 24 0x771234 = some (.illegal 0x77 0x12 0x34)

/-- 30_encoding.md section 1 and 10_state.md section 2: the decoder takes exactly three bytes where there are
three, and rejects fewer by name. -/
def Obligations.DecoderTakesThreeBytes : Prop :=
  ∀ bs : List Byte,
    (bs.length < 3 → decode bs = .rejected (.partialFrame bs.length)) ∧
    (3 ≤ bs.length → ∃ i, decode bs = .instr i (bs.drop 3) ∧ encode i = bs.take 3)

/-- 30_encoding.md section 4 and 95_test_vectors.md section 2.8 (a count the spec derives): of the 2^24 frames,
exactly 200960 raise no error. -/
def Obligations.CountOfAcceptedFrames : Prop :=
  ((Finset.univ : Finset (Fin 256 × Fin 256 × Fin 256)).filter fun w =>
    errorCause? (decodeFrame ⟨BitVec.ofFin w.1, BitVec.ofFin w.2.1, BitVec.ofFin w.2.2⟩) = none).card = 200960

/-! ## Steps -/

/-- 40_dispatch.md sections 1 and 2 (the step granularity is the spec's choice, D1, D2, D3): in the block's turn,
with two bytes held, the offered byte completes the frame, and the step is `exec` of the decoded instruction on
the state in which the three bytes are consumed. -/
def Obligations.StepRunsDecodedFrame : Prop :=
  ∀ (s : State) (b : Byte) (rest : List Byte) (i : Instr),
    s.blockMoves → s.run = .running → s.fcnt = .two → s.rx = b :: rest →
    decode [s.fOp, s.fTgt, b] = .instr i [] →
    step s = exec i { s with fcnt := .zero, nbytes := s.nbytes + 1, rx := rest, sched := s.sched.tail }

/-- The model's own (log 17): a table word placed by `withFetchWord` is what the very next step runs, from every
state, and the frame is consumed whole. -/
def Obligations.FetchWordIsRunNext : Prop :=
  ∀ (s : State) (nbits w : Nat) (i : Instr), decodeTableWord nbits w = some i →
    ∃ u : State, step (s.withFetchWord nbits w) = exec i u ∧
      u.params = s.params ∧ u.out = s.out ∧ u.tx = s.tx ∧ u.ev = s.ev ∧ u.nframes = s.nframes ∧
      u.rx = s.rx ∧ u.sched = s.sched ∧ u.run = .running ∧ u.fcnt = .zero ∧
      u.nbytes + frameCountVal s.fcnt = s.nbytes + 3

/-- 40_dispatch.md section 1 (D1, D2, D3 are the spec's choices): the first byte of a frame is only stored, as
the opcode; the second only stored, as the target. -/
def Obligations.FirstTwoBytesAreOnlyStored : Prop :=
  ∀ (s : State) (b : Byte) (rest : List Byte), s.blockMoves → s.run = .running → s.rx = b :: rest →
    (s.fcnt = .zero → step s =
      .next { s with fcnt := .one, fOp := b, nbytes := s.nbytes + 1, rx := rest, sched := s.sched.tail }) ∧
    (s.fcnt = .one → step s =
      .next { s with fcnt := .two, fTgt := b, nbytes := s.nbytes + 1, rx := rest, sched := s.sched.tail })

/-- 40_dispatch.md section 1 (D1, D2): when no byte is offered nothing happens, whatever the block holds. -/
def Obligations.NoByteNoChange : Prop :=
  ∀ s : State, s.blockMoves → s.rx = [] → step s = .next { s with sched := s.sched.tail }

/-- 20_memory.md section 3 (its rule on partial frames): a partial frame is held without limit, causes no response and
no write, and becomes the first bytes of a frame when enough bytes arrive; only reset discards it. In every step
one of these holds: reset discards it; no byte is accepted, because the host moves, no byte is offered or a restart
is pending (the spec's choice D10, log 10), and then it is held as it is and no waiting byte is dropped; an offered
byte is added to it in silence; its two bytes and the offered one are executed as a frame. -/
def Obligations.PartialFrameIsHeld : Prop :=
  ∀ s : State, ∃ t, step s = .next t ∧
    ((rstIn s = true ∧ heldBytes t = []) ∨
     (((∃ b ts, s.sched = .send b :: ts) ∨ (s.blockMoves ∧ (s.rx = [] ∨ s.run = .restartPending))) ∧
        heldBytes t = heldBytes s ∧ Silent s t ∧ s.rx <+: t.rx) ∨
     (s.blockMoves ∧ (heldBytes s).length < 2 ∧ Silent s t ∧
        ∃ b, s.rx = b :: t.rx ∧ heldBytes t = heldBytes s ++ [b]) ∨
     (s.blockMoves ∧ (heldBytes s).length = 2 ∧ heldBytes t = [] ∧
        ∃ b f u, s.rx = b :: t.rx ∧ f.bytes = heldBytes s ++ [b] ∧ Silent s u ∧
          exec (decodeFrame f) u = .next t))

/-- 60_exceptions.md section 1 and 93_implementation_defined.md ("no undefined behaviour in the processor
sense"): every instruction and every step goes on; the block never stops. -/
def Obligations.NothingStopsTheBlock : Prop :=
  (∀ (i : Instr) (s : State), ∃ t, exec i s = .next t) ∧ ∀ s : State, ∃ t, step s = .next t

/-- 10_state.md section 1 ("are constants, not state"): no step changes a parameter. -/
def Obligations.ParametersAreConstant : Prop :=
  ∀ s t : State, step s = .next t → t.params = s.params

/-! ## Instructions -/

/-- 41_pwm.md R85: on target 1 to 4 the register of that channel alone takes `pwm_scale(val)`, with its write
event, and the response is 0x01; on every other target nothing is written and the response is 0xEE. The value is
given for every SCALE_ROUNDING by `pwmScale` and for the default by the formula. -/
def Obligations.PwmFrameEffect : Prop :=
  ∀ (s : State) (tgt val : Byte),
    (∀ m : Motor, tgt.toNat = motorIndex m →
      ∃ t, exec (.pwm tgt val) s = .next t ∧ KeptByFrame s t ∧ t.run = s.run ∧
        readPwm t.out m = pwmScale s.params.scaleRounding val ∧
        (s.params.scaleRounding = .nearestUp →
          (readPwm t.out m).toNat = (2046 * val.toNat + 255) / 510) ∧
        OnlyPwmDiffers m s.out t.out ∧
        t.ev = s.ev ++ [.writePwm m (readPwm t.out m), .resp 0x01 none] ∧ t.tx = s.tx ++ [0x01]) ∧
    (tgt.toNat = 0 ∨ 5 ≤ tgt.toNat → ∃ t, exec (.pwm tgt val) s = .next t ∧ AnsweredWithError s t)

/-- 42_digital.md R90 (the tags are those of R91, high nibble the motor, low nibble the terminal): on a tag the
register of that tag alone takes `val != 0`, with its write event, and the response is 0x02; on every byte but the eight
tags nothing is written and the response is 0xEE. -/
def Obligations.DigitalFrameEffect : Prop :=
  ∀ (s : State) (tgt val : Byte),
    (∀ g : Tag, tgt.toNat / 16 = motorIndex g.motor → tgt.toNat % 16 = terminalIndex g.terminal →
      tgt ∈ ([0x11, 0x12, 0x21, 0x22, 0x31, 0x32, 0x41, 0x42] : List Byte) ∧
      ∃ t, exec (.digital tgt val) s = .next t ∧ KeptByFrame s t ∧ t.run = s.run ∧
        (readDig t.out g = true ↔ val ≠ 0x00) ∧ OnlyDigDiffers g s.out t.out ∧
        t.ev = s.ev ++ [.writeDig g (readDig t.out g), .resp 0x02 none] ∧ t.tx = s.tx ++ [0x02]) ∧
    (tgt ∉ ([0x11, 0x12, 0x21, 0x22, 0x31, 0x32, 0x41, 0x42] : List Byte) →
      ∃ t, exec (.digital tgt val) s = .next t ∧ AnsweredWithError s t)

/-- 43_servo.md: SERVO writes its register on every target and every value and answers 0x03. The value is given
for every SCALE_ROUNDING by `servoScale`; the tie rule of the formula is the spec's choice D5, and the formula
above 180 its choice D6. -/
def Obligations.ServoFrameEffect : Prop :=
  ∀ (s : State) (tgt val : Byte),
    ∃ t, exec (.servo tgt val) s = .next t ∧ KeptByFrame s t ∧ t.run = s.run ∧
      t.out.servo = servoScale s.params.scaleRounding val ∧
      (s.params.scaleRounding = .nearestUp →
        t.out.servo.toNat = 1638 + (6554 * val.toNat + 90) / 180) ∧
      t.out.pwm = s.out.pwm ∧ t.out.dig = s.out.dig ∧ t.out.neo = s.out.neo ∧
      t.ev = s.ev ++ [.writeServo t.out.servo, .resp 0x03 none] ∧ t.tx = s.tx ++ [0x03]

/-- 44_neopixel.md: each of the five codes writes its colour, on every target, with the show event and the
response 0x04. The component values are the spec's choice D8: a lit component is NEO_LEVEL. -/
def Obligations.NeopixelFrameEffect : Prop :=
  ∀ (s : State) (tgt val r g b : Byte),
    ((val, r, g, b) = (0x00, 0x00, 0x00, 0x00) ∨ (val, r, g, b) = (0x01, s.params.neoLevel, 0x00, 0x00) ∨
     (val, r, g, b) = (0x02, 0x00, s.params.neoLevel, 0x00) ∨
     (val, r, g, b) = (0x03, 0x00, 0x00, s.params.neoLevel) ∨
     (val, r, g, b) = (0xFF, s.params.neoLevel, s.params.neoLevel, s.params.neoLevel)) →
    ∃ t, exec (.neopixel tgt val) s = .next t ∧ KeptByFrame s t ∧ t.run = s.run ∧
      t.out.neo.toNat = r.toNat * 65536 + g.toNat * 256 + b.toNat ∧
      t.out.pwm = s.out.pwm ∧ t.out.dig = s.out.dig ∧ t.out.servo = s.out.servo ∧
      t.ev = s.ev ++ [.writeNeo t.out.neo, .resp 0x04 none] ∧ t.tx = s.tx ++ [0x04]

/-- 44_neopixel.md R102: the encoder sends `ff` as 0xFF and every other code as its decimal value, unchecked, so
any byte can reach the block; at the block an unmatched one gives ERROR and leaves the indicator (and every other register) unchanged. -/
def Obligations.UnmatchedColourIsRejected : Prop :=
  assemble ['n', 'e', 'o', ' ', 'f', 'f'] = .frame ⟨0x04, 0x00, 0xFF⟩ ∧
  (∀ val : Byte, assemble (['n', 'e', 'o', ' '] ++ Nat.toDigits 10 val.toNat) = .frame ⟨0x04, 0x00, val⟩) ∧
  ∀ (s : State) (tgt val : Byte), val ∉ ([0x00, 0x01, 0x02, 0x03, 0xFF] : List Byte) →
    ∃ t, exec (.neopixel tgt val) s = .next t ∧ AnsweredWithError s t

/-- 45_system.md R105: PING changes no state and always responds READY (0xAA), whatever its bytes. -/
def Obligations.PingFrameEffect : Prop :=
  ∀ (s : State) (tgt val : Byte),
    ∃ t, exec (.ping tgt val) s = .next t ∧ KeptByFrame s t ∧ t.run = s.run ∧ t.out = s.out ∧
      t.ev = s.ev ++ [.resp 0xAA none] ∧ t.tx = s.tx ++ [0xAA]

/-- 45_system.md (the restart mechanism is the spec's choice D10): RESET responds 0xBB, then requests the
restart; every output register keeps its value. -/
def Obligations.ResetFrameEffect : Prop :=
  ∀ (s : State) (tgt val : Byte),
    ∃ t, exec (.reset tgt val) s = .next t ∧ KeptByFrame s t ∧ t.run = .restartPending ∧ t.out = s.out ∧
      t.ev = s.ev ++ [.resp 0xBB none, .restartReq] ∧ t.tx = s.tx ++ [0xBB]

/-- 45_system.md R107: a frame with any of the other 250 opcode bytes is ILLEGAL, changes no state and responds
ERROR; the whole frame is consumed. -/
def Obligations.IllegalFrameEffect : Prop :=
  ∀ (s : State) (op tgt val : Byte), op ∉ ([0x01, 0x02, 0x03, 0x04, 0xF0, 0xFF] : List Byte) →
    decodeFrame ⟨op, tgt, val⟩ = .illegal op tgt val ∧
    (∃ t, exec (.illegal op tgt val) s = .next t ∧ AnsweredWithError s t) ∧
    (∀ rest, s.blockMoves → s.run = .running → s.fcnt = .two → s.fOp = op → s.fTgt = tgt →
      s.rx = val :: rest →
      ∃ t, step s = .next t ∧ t.fcnt = .zero ∧ t.rx = rest ∧ t.out = s.out ∧ t.run = .running ∧
        t.tx = s.tx ++ [0xEE] ∧ ∃ cause, t.ev = s.ev ++ [.resp 0xEE cause])

/-! ## Errors, responses, writes -/

/-- 60_exceptions.md R120: a frame is reported as an error, with the byte 0xEE and no state mutation, exactly
when it meets one of the four conditions of the table. -/
def Obligations.ErrorExactlyOnTheFourCauses : Prop :=
  ∀ (s : State) (f : Frame),
    ∃ t, exec (decodeFrame f) s = .next t ∧
      (IsErrorFrame f → AnsweredWithError s t) ∧ (t.tx = s.tx ++ [0xEE] ↔ IsErrorFrame f)

/-- 60_exceptions.md R122: taking an error emits the one byte 0xEE, writes no register, raises no strobe, leaves
RUN = RUNNING and finishes the frame: its three bytes are consumed and the next byte is an opcode. -/
def Obligations.ErrorFrameIsConsumed : Prop :=
  ∀ (s : State) (b : Byte) (rest : List Byte),
    s.blockMoves → s.run = .running → s.fcnt = .two → s.rx = b :: rest → IsErrorFrame ⟨s.fOp, s.fTgt, b⟩ →
    ∃ t cause, step s = .next t ∧ t.tx = s.tx ++ [0xEE] ∧ t.ev = s.ev ++ [.resp 0xEE cause] ∧ t.out = s.out ∧
      t.run = .running ∧ t.fcnt = .zero ∧ t.rx = rest ∧ t.nbytes = s.nbytes + 1 ∧
      t.nframes = s.nframes + 1 ∧ t.params = s.params ∧
      (∀ m, pwmWe s m = false) ∧ (∀ g, digWe s g = false) ∧ servoWe s = false ∧ neoShow s = false

/-- 40_dispatch.md R76: every branch emits exactly one response byte, after its register write if any; nothing
but a completed frame emits one, except the READY of BOOT_ANNOUNCE in a reset. -/
def Obligations.OneResponsePerFrame : Prop :=
  (∀ (i : Instr) (s : State), ∃ t writes after cause, ∃ r : Response, exec i s = .next t ∧
    t.tx = s.tx ++ [responseByte r] ∧ t.ev = s.ev ++ writes ++ [.resp (responseByte r) cause] ++ after ∧
    writes.length ≤ 1 ∧ (∀ e ∈ writes, isWrite e = true) ∧
    (∀ e ∈ after, respByte? e = none ∧ isWrite e = false)) ∧
  ∀ s : State, ∃ t, step s = .next t ∧
    (rstIn s = true → t.tx = (if s.params.bootAnnounce = .ready then [0xAA] else [])) ∧
    (rstIn s = false → (t.nframes = s.nframes ∧ t.tx = s.tx) ∨
      (t.nframes = s.nframes + 1 ∧ ∃ r : Response, t.tx = s.tx ++ [responseByte r]))

/-- 10_state.md section 8 and 40_dispatch.md section 2 (which the spec derives): what an instruction does depends
on its own bytes and the parameters alone. It records the same events from every state, at most one of them a
write; the registers change by that write only, and RUN by a restart request only. -/
def Obligations.EffectDependsOnTheFrameAlone : Prop :=
  ∀ (i : Instr) (p : Params), ∃ es : List Event, (es.filter isWrite).length ≤ 1 ∧
    ∀ s : State, s.params = p →
      ∃ t, exec i s = .next t ∧ KeptByFrame s t ∧ t.ev = s.ev ++ es ∧
        t.tx = s.tx ++ es.filterMap respByte? ∧ t.out = replay s.out (es.filter isWrite) ∧
        t.run = (if .restartReq ∈ es then .restartPending else s.run)

/-- 20_memory.md section 4 (R39's first two sentences): executing a frame twice in a row leaves the registers as
after the first, while each execution adds its own events and its own response. -/
def Obligations.RepeatedFrameIsIdempotentOnRegisters : Prop :=
  ∀ (i : Instr) (s : State), ∃ t u es, exec i s = .next t ∧ exec i t = .next u ∧ u.out = t.out ∧
    es ≠ [] ∧ t.ev = s.ev ++ es ∧ u.ev = s.ev ++ es ++ es ∧ u.tx.length = s.tx.length + 2

/-- 10_state.md section 6 (the signals are the spec's choice D1): outside reset, in every step, at most one write
strobe is raised, no register changes without its strobe, and `tx_valid` is raised exactly when a frame
completes, with the byte appended to TX. -/
def Obligations.StrobesTellTheWrites : Prop :=
  ∀ s : State, ∃ t, step s = .next t ∧ (rstIn s = false →
    (∀ m m', pwmWe s m = true → pwmWe s m' = true → m = m') ∧
    (∀ g g', digWe s g = true → digWe s g' = true → g = g') ∧
    ((∃ m, pwmWe s m = true) → (∀ g, digWe s g = false) ∧ servoWe s = false ∧ neoShow s = false) ∧
    ((∃ g, digWe s g = true) → servoWe s = false ∧ neoShow s = false) ∧
    (servoWe s = true → neoShow s = false) ∧
    (∀ m, pwmWe s m = false → readPwm t.out m = readPwm s.out m) ∧
    (∀ g, digWe s g = false → readDig t.out g = readDig s.out g) ∧
    (servoWe s = false → t.out.servo = s.out.servo) ∧
    (neoShow s = false → t.out.neo = s.out.neo) ∧
    (txValid s = true ↔ t.nframes = s.nframes + 1) ∧
    t.tx = s.tx ++ (txData s).toList)

/-! ## The rescales -/

/-- 41_pwm.md and 43_servo.md (nearest with a half going up is the spec's choice D5, default of SCALE_ROUNDING):
the formulas, "nearest" as a bound on the distance from the exact quotient, the half going up; and for every
reading of "round" the end points and strict monotonicity. -/
def Obligations.ScalesRoundToNearest : Prop :=
  (∀ v : Byte,
    (pwmScale .nearestUp v).toNat = (2046 * v.toNat + 255) / 510 ∧
    (servoScale .nearestUp v).toNat = 1638 + (6554 * v.toNat + 90) / 180 ∧
    2 * 1023 * v.toNat ≤ 2 * 255 * (pwmScale .nearestUp v).toNat + 255 ∧
    2 * 255 * (pwmScale .nearestUp v).toNat ≤ 2 * 1023 * v.toNat + 255 ∧
    2 * 6554 * v.toNat < 2 * 180 * ((servoScale .nearestUp v).toNat - 1638) + 180 ∧
    2 * 180 * ((servoScale .nearestUp v).toNat - 1638) ≤ 2 * 6554 * v.toNat + 180) ∧
  ∀ (r : Rounding) (v w : Byte),
    (pwmScale r 0).toNat = 0 ∧ (pwmScale r 255).toNat = 1023 ∧
    (servoScale r 0).toNat = 1638 ∧ (servoScale r 180).toNat = 8192 ∧
    (v.toNat < w.toNat →
      (pwmScale r v).toNat < (pwmScale r w).toNat ∧ (servoScale r v).toNat < (servoScale r w).toNat)

/-! ## Restart, reset and the transport -/

/-- 10_state.md section 3 and 45_system.md (the state RUN is the spec's choice D10): with RUN = RESTART_PENDING
every step that is not a reset leaves the whole block as it is, and the block's turn takes no byte. -/
def Obligations.RestartPendingFreezesTheBlock : Prop :=
  ∀ s : State, s.run = .restartPending → rstIn s = false →
    ∃ t, step s = .next t ∧ SameBlock s t ∧ (s.blockMoves → t.rx = s.rx)

/-- 10_state.md section 3 and 20_memory.md section 6 (the state RUN is the spec's choice D10, log 10): RUN becomes RESTART_PENDING only in the step that accepts
the third byte of a frame whose opcode is RESET's. -/
def Obligations.OnlyAResetFrameRequestsRestart : Prop :=
  ∀ s t : State, step s = .next t → s.run = .running → t.run = .restartPending →
    s.blockMoves ∧ s.fcnt = .two ∧ s.fOp = 0xFF ∧ (∃ b, s.rx = b :: t.rx) ∧ t.tx = s.tx ++ [0xBB]

/-- 45_system.md (D10) and 95_test_vectors.md section 2.7: once a RESET frame is offered, its response is the
last one, the bytes behind it stay in the transport and the registers keep their values, however long the block
waits. -/
def Obligations.NothingRunsBehindReset : Prop :=
  ∀ (s : State) (tgt val : Byte) (rest : List Byte) (n : Nat), s.run = .running → s.fcnt = .zero →
    ∃ t, runSteps (3 + n) (s.offered (0xFF :: tgt :: val :: rest)) = .next t ∧
      t.tx = s.tx ++ [0xBB] ∧ t.ev = s.ev ++ [.resp 0xBB none, .restartReq] ∧ t.rx = rest ∧ t.out = s.out ∧
      t.run = .restartPending ∧ t.fcnt = .zero

/-- 70_reset_and_hazards.md section 1 (the reset values are the spec's choice D9, reset in mid-frame its choice
D18, the fate of waiting bytes its parameter D11, the announcement D12): `rst`, whatever is in progress, puts
every piece of state at its reset value; with the default parameters that is the power-on state, every register
zero. -/
def Obligations.RstPutsTheResetState : Prop :=
  ∀ (s : State) (lost : Nat) (ts : List Turn), s.sched = .rst lost :: ts →
    ∃ t, step s = .next t ∧ t.fcnt = .zero ∧ t.fOp = 0x00 ∧ t.fTgt = 0x00 ∧ t.run = .running ∧
      t.out = s.params.resetValues ∧ t.nbytes = 0 ∧ t.nframes = 0 ∧ t.params = s.params ∧ t.sched = ts ∧
      (s.params.bootAnnounce = .none → t.tx = [] ∧ t.ev = []) ∧
      (s.params.bootAnnounce = .ready → t.tx = [0xAA] ∧ t.ev = [.resp 0xAA none]) ∧
      (s.params.resetRxPolicy = .flush → t.rx = []) ∧
      (s.params.resetRxPolicy = .keep → t.rx = s.rx) ∧
      (s.params.resetRxPolicy = .any → t.rx = s.rx.drop lost) ∧
      (s.params = defaultParams → SameBlock State.reset t ∧ (∀ m, readPwm t.out m = 0) ∧
        (∀ g, readDig t.out g = false) ∧ t.out.servo = 0 ∧ t.out.neo = 0)

/-- 20_memory.md section 7 and 70_reset_and_hazards.md section 3 (RX_DEPTH is the spec's parameter D13): a byte
the host sends waits behind the others, or is lost without notice where a finite depth is full; the block does
not notice it. -/
def Obligations.HostSendQueuesInOrder : Prop :=
  ∀ (s : State) (b : Byte) (ts : List Turn), s.sched = .send b :: ts →
    ∃ t, step s = .next t ∧ SameBlock s t ∧ t.sched = ts ∧
      (s.params.rxDepth = none → t.rx = s.rx ++ [b]) ∧
      (∀ d, s.params.rxDepth = some d → t.rx = if s.rx.length < d then s.rx ++ [b] else s.rx)

/-- 20_memory.md section 7 (D13): the transport never holds more than RX_DEPTH bytes. -/
def Obligations.TransportStaysWithinDepth : Prop :=
  ∀ (s t : State) (d : Nat), s.params.rxDepth = some d → s.rx.length ≤ d → step s = .next t →
    t.params.rxDepth = some d ∧ t.rx.length ≤ d

/-! ## Invariants -/

/-- 10_state.md sections 5, 9 and 10, 60_exceptions.md section 1: the power-on state meets the invariants (of which
`causesNamed` is DEDUCED, log 16, and the clauses on a pending restart are the spec's choice D10, log 10). -/
def Obligations.ResetStateMeetsInvariants : Prop := State.reset.Inv

/-- 10_state.md section 10 (which the spec derives) and section 5, 60_exceptions.md section 1: every step, reset
included, keeps the invariants. That the responses 0xEE and no others carry the name of a cause in EV
(`causesNamed`) is DEDUCED, log 16; the clauses on a pending restart (`restartPending`, `restartRecorded`) rest on
the spec's choice D10, log 10. -/
def Obligations.StepKeepsInvariants : Prop := ∀ s t : State, s.Inv → step s = .next t → t.Inv

/-- 10_state.md sections 1 and 10: where the invariants hold with the default parameters (the spec's choices D5,
D8, D9), SERVO_DUTY is 0 or in 1638..10923 and NEO_RGB is one of five values. -/
def Obligations.RegistersStayInTheirRanges : Prop :=
  ∀ s : State, s.Inv → s.params = defaultParams →
    (s.out.servo.toNat = 0 ∨ (1638 ≤ s.out.servo.toNat ∧ s.out.servo.toNat ≤ 10923)) ∧
    s.out.neo ∈ ([0x000000, 0xFF0000, 0x00FF00, 0x0000FF, 0xFFFFFF] : List (BitVec 24)) ∧
    (∀ m, ∃ v : Byte, (readPwm s.out m).toNat = (2046 * v.toNat + 255) / 510)

/-! ## Runs -/

/-- 20_memory.md section 5 (R42, which the spec derives) and 40_dispatch.md section 3: whole frames, none of them
RESET, sent in a row are executed in order; the n-th response answers the n-th frame; three bytes are consumed
per frame, whatever it is. -/
def Obligations.ResponsesAreFirstInFirstOut : Prop :=
  ∀ (s : State) (fs : List Frame) (rest : List Byte), s.run = .running → s.fcnt = .zero →
    (∀ f ∈ fs, f.op ≠ 0xFF) →
    ∃ t, runSteps (3 * fs.length) (s.offered (frameBytes fs ++ rest)) = .next t ∧
      t.tx = s.tx ++ fs.map (fun f => responseByte (responseOf (decodeFrame f))) ∧ t.rx = rest ∧
      t.run = .running ∧ t.fcnt = .zero ∧ t.nframes = s.nframes + fs.length ∧
      t.nbytes = s.nbytes + 3 * fs.length

/-- 20_memory.md section 3 and 95_test_vectors.md section 4: alignment is positional. After any byte string at
whose end the block is still running, every byte is accepted, FCNT is the position modulo 3, and one response
has been given for every three bytes. -/
def Obligations.AlignmentIsPositional : Prop :=
  ∀ (s : State) (bs : List Byte), ∃ t, runSteps bs.length (s.offered bs) = .next t ∧
    (t.run = .running → t.rx = [] ∧ t.nbytes = s.nbytes + bs.length ∧
      frameCountVal t.fcnt = (frameCountVal s.fcnt + bs.length) % 3 ∧
      t.nframes = s.nframes + (frameCountVal s.fcnt + bs.length) / 3 ∧
      t.tx.length = s.tx.length + (frameCountVal s.fcnt + bs.length) / 3)

/-- 40_dispatch.md section 3 (R79, which the spec derives): offering a byte string in two pieces at different
times gives the same block state and the same traces as offering it whole. -/
def Obligations.SplittingTheStreamChangesNothing : Prop :=
  ∀ (s : State) (bs cs : List Byte), ∃ t u v,
    runSteps bs.length (s.offered bs) = .next t ∧
    runSteps cs.length (t.offered cs) = .next u ∧
    runSteps (bs.length + cs.length) (s.offered (bs ++ cs)) = .next v ∧ SameBlock u v

/-! ## The assembler syntax -/

/-- 30_encoding.md section 6: the encoder validates nothing. Every numeric operand, however large, is passed through as
the byte `n mod 256`, in every line that has one; DIGITAL's pin number after the lookup. That the lookup comes before
the truncation (267 is sent as 0x0B) is DEDUCED, log 18. -/
def Obligations.NumericOperandsAreTruncated : Prop :=
  ∀ m n : Nat,
    assemble (['p', 'w', 'm', ' '] ++ Nat.toDigits 10 m ++ [' '] ++ Nat.toDigits 10 n) =
      .frame ⟨0x01, BitVec.ofNat 8 (m % 256), BitVec.ofNat 8 (n % 256)⟩ ∧
    assemble (['s', 'e', 'r', 'v', 'o', ' '] ++ Nat.toDigits 10 n) =
      .frame ⟨0x03, 0x00, BitVec.ofNat 8 (n % 256)⟩ ∧
    assemble (['n', 'e', 'o', ' '] ++ Nat.toDigits 10 n) = .frame ⟨0x04, 0x00, BitVec.ofNat 8 (n % 256)⟩ ∧
    (m ∉ [11, 12, 21, 22, 31, 32, 41, 42] →
      assemble (['d', 'i', 'g', 'i', 't', 'a', 'l', ' '] ++ Nat.toDigits 10 m ++ [' '] ++ Nat.toDigits 10 n) =
        .frame ⟨0x02, BitVec.ofNat 8 (m % 256), BitVec.ofNat 8 (n % 256)⟩)

/-- 30_encoding.md section 6: a two-digit pin number of the lookup gives the tag whose nibbles are its digits; every
other number is sent as its own value, even where that value is a tag (17 = 0x11). For numbers of 256 and more this
rests on the lookup coming before the truncation, which is DEDUCED, log 18. -/
def Obligations.DigitalPinsAreLookedUp : Prop :=
  (∀ (g : Tag) (n : Nat),
    assemble (['d', 'i', 'g', 'i', 't', 'a', 'l', ' '] ++
        Nat.toDigits 10 (10 * motorIndex g.motor + terminalIndex g.terminal) ++ [' '] ++ Nat.toDigits 10 n) =
      .frame ⟨0x02, BitVec.ofNat 8 (16 * motorIndex g.motor + terminalIndex g.terminal),
        BitVec.ofNat 8 (n % 256)⟩) ∧
  (∀ p n : Nat, (∀ g : Tag, p ≠ 10 * motorIndex g.motor + terminalIndex g.terminal) →
    assemble (['d', 'i', 'g', 'i', 't', 'a', 'l', ' '] ++ Nat.toDigits 10 p ++ [' '] ++ Nat.toDigits 10 n) =
      .frame ⟨0x02, BitVec.ofNat 8 (p % 256), BitVec.ofNat 8 (n % 256)⟩)

/-- 30_encoding.md section 6: no line of text gives a frame with an illegal opcode or with a nonzero byte in an
unused field. -/
def Obligations.TextGivesOnlyConventionalFrames : Prop :=
  ∀ (line : List Char) (f : Frame), assemble line = .frame f →
    f.op ∈ ([0x01, 0x02, 0x03, 0x04, 0xF0, 0xFF] : List Byte) ∧
    (f.op = 0x03 ∨ f.op = 0x04 → f.tgt = 0x00) ∧
    (f.op = 0xF0 ∨ f.op = 0xFF → f.tgt = 0x00 ∧ f.val = 0x00)

/-! ## The names of the causes -/

/-- 60_exceptions.md section 1: the host cannot tell the four causes apart. From one state, two frames of whatever
causes lead to states that differ at most in EV, where each response carries its own cause's name (where in the
trace the name stands is DEDUCED, log 16); and no run reads EV: states that differ in EV alone lead to states that
differ in EV alone. -/
def Obligations.CausesAreNamedInTheTraceOnly : Prop :=
  (∀ (s : State) (f g : Frame) (c d : ErrorCause), HasCause f c → HasCause g d →
    ∃ t : State, exec (decodeFrame f) s = .next { t with ev := s.ev ++ [.resp 0xEE (some c)] } ∧
      exec (decodeFrame g) s = .next { t with ev := s.ev ++ [.resp 0xEE (some d)] }) ∧
  ∀ (k : Nat) (s : State) (ev : List Event), ∃ (t : State) (ev' : List Event),
    runSteps k s = .next t ∧ runSteps k { s with ev := ev } = .next { t with ev := ev' }
end

