-- ==== Sys2Proof/Laws/Decode.lean ====
section
/-! SUPPORT. The opcode map, the frame word and the decoder: one lemma for what each answers. -/

namespace Sys2Proof

theorem opcodeOf?_eq_some {b : Byte} {o : Opcode} : opcodeOf? b = some o ↔ b = o.byte := by
  constructor
  · intro h
    have := List.find?_some h
    simp at this
    exact this.symm
  · rintro rfl
    cases o <;> rfl

theorem opcodeOf?_eq_none {b : Byte} : opcodeOf? b = none ↔ definedOpcodes.contains b = false := by
  revert b
  decide

/-- The frame word as a number. -/
theorem Frame.word_toNat (f : Frame) :
    f.word.toNat = f.op.toNat * 65536 + f.tgt.toNat * 256 + f.val.toNat := by
  have append (n : Nat) (x : BitVec n) (y : Byte) : (x ++ y).toNat = x.toNat * 256 + y.toNat := by
    rw [BitVec.toNat_append, ← Nat.shiftLeft_add_eq_or_of_lt y.isLt, Nat.shiftLeft_eq]
  have hw : f.word.toNat = (f.op ++ f.tgt ++ f.val).toNat := rfl
  rw [hw, append, append]
  omega

@[simp] theorem Frame.ofWord_word (f : Frame) : Frame.ofWord f.word = f := by
  have hw := f.word_toNat
  have hop := f.op.isLt
  have htgt := f.tgt.isLt
  have hval := f.val.isLt
  obtain ⟨op, tgt, val⟩ := f
  simp only [Frame.ofWord, Frame.mk.injEq, ← BitVec.toNat_inj, BitVec.extractLsb'_toNat,
    Nat.shiftRight_eq_div_pow] at *
  refine ⟨?_, ?_, ?_⟩ <;> omega

/-- The opcode mask of the table keeps the opcode byte. -/
theorem Frame.word_and_opcodeMask (f : Frame) : f.word &&& 16711680#24 = f.op.zeroExtend 24 <<< 16 := by
  have hop : f.op = f.word.extractLsb' 16 8 := (congrArg Frame.op (Frame.ofWord_word f)).symm
  rw [hop]
  ext i hi
  simp only [BitVec.getElem_and, BitVec.getElem_shiftLeft]
  interval_cases i <;> simp

@[simp] theorem frame_decodeFrame (f : Frame) : (decodeFrame f).frame = f := by
  unfold decodeFrame
  cases h : opcodeOf? f.op with
  | none => rfl
  | some o =>
    have := opcodeOf?_eq_some.mp h
    cases o <;> simp only [Instr.frame, ← this]

theorem opcode?_decodeFrame (f : Frame) : (decodeFrame f).opcode? = opcodeOf? f.op := by
  unfold decodeFrame
  cases opcodeOf? f.op with
  | none => rfl
  | some o => cases o <;> rfl

theorem decode_cons (op tgt val : Byte) (rest : List Byte) :
    decode (op :: tgt :: val :: rest) = .instr (decodeFrame ⟨op, tgt, val⟩) rest := rfl

theorem decode_bytes_append (f : Frame) (rest : List Byte) :
    decode (f.bytes ++ rest) = .instr (decodeFrame f) rest := rfl

@[simp] theorem length_encode (i : Instr) : (encode i).length = 3 := rfl

end Sys2Proof
end

