-- ==== Sys2Proof/Laws/Operands.lean ====
section
/-! SUPPORT. What each operand form accepts, and the value and range of the two rescales. -/

namespace Sys2Proof.Machine

theorem motorOf?_eq_some {n : Nat} {m : Motor} : motorOf? n = some m ↔ n = motorIndex m := by
  unfold motorOf?
  split <;> cases m <;> simp_all [motorIndex]

theorem motorOf?_eq_none {n : Nat} : motorOf? n = none ↔ n = 0 ∨ 5 ≤ n := by
  unfold motorOf?
  split <;> simp_all
  omega

theorem pwmTarget?_eq_some {tgt : Byte} {m : Motor} : pwmTarget? tgt = some m ↔ tgt.toNat = motorIndex m :=
  motorOf?_eq_some

theorem pwmTarget?_eq_none {tgt : Byte} : pwmTarget? tgt = none ↔ tgt.toNat = 0 ∨ 5 ≤ tgt.toNat :=
  motorOf?_eq_none

theorem digTarget?_tagByte : ∀ t : Tag, digTarget? (tagByte t) = some t
  | ⟨m, e⟩ => by cases m <;> cases e <;> rfl

/-- The lookup answers a tag for that tag's byte only. -/
theorem digTarget?_eq_some {tgt : Byte} {t : Tag} : digTarget? tgt = some t ↔ tgt = tagByte t := by
  constructor
  · revert tgt t
    decide +revert
  · rintro rfl
    exact digTarget?_tagByte t

theorem digTarget?_eq_none {tgt : Byte} : digTarget? tgt = none ↔ ∀ t, tgt ≠ tagByte t := by
  constructor
  · intro h t ht
    rw [ht, digTarget?_tagByte] at h
    exact absurd h (by simp)
  · intro h
    cases hd : digTarget? tgt with
    | none => rfl
    | some t => exact absurd (digTarget?_eq_some.mp hd) (h t)

theorem digLevel_eq_true {val : Byte} : digLevel val = true ↔ val ≠ 0x00 := by simp [digLevel]

/-- Every rounding of `v * 1023 / 255` is within one of the truncated quotient, so it fits the register. -/
theorem roundedDiv_le (r : Rounding) (num den : Nat) (h : 0 < den) : roundedDiv r num den ≤ num / den + 1 := by
  cases r with
  | nearestUp =>
    simp only [roundedDiv]
    have hq := Nat.div_add_mod num den
    have hr := Nat.mod_lt num h
    have hm : 2 * den * (num / den + 2) = 2 * (den * (num / den)) + 4 * den := by ring
    have : (2 * num + den) / (2 * den) < num / den + 2 := Nat.div_lt_of_lt_mul (by omega)
    omega
  | nearestEven => simp only [roundedDiv]; split <;> [omega; (split <;> omega)]
  | floor => simp [roundedDiv]

end Sys2Proof.Machine
end

