-- ==== Sys2Proof/Laws/State.lean ====
section
/-! SUPPORT. What each operation of Machine/Ops.lean does to each field of the state, and what the register
operations do to each register: one lemma per field and operation, so that no later proof unfolds an update. -/

namespace Sys2Proof.Machine

section
variable (s : State)

@[simp] theorem countFrame_params : (countFrame s).params = s.params := rfl
@[simp] theorem countFrame_fcnt : (countFrame s).fcnt = s.fcnt := rfl
@[simp] theorem countFrame_fOp : (countFrame s).fOp = s.fOp := rfl
@[simp] theorem countFrame_fTgt : (countFrame s).fTgt = s.fTgt := rfl
@[simp] theorem countFrame_run : (countFrame s).run = s.run := rfl
@[simp] theorem countFrame_out : (countFrame s).out = s.out := rfl
@[simp] theorem countFrame_tx : (countFrame s).tx = s.tx := rfl
@[simp] theorem countFrame_ev : (countFrame s).ev = s.ev := rfl
@[simp] theorem countFrame_nbytes : (countFrame s).nbytes = s.nbytes := rfl
@[simp] theorem countFrame_nframes : (countFrame s).nframes = s.nframes + 1 := rfl
@[simp] theorem countFrame_rx : (countFrame s).rx = s.rx := rfl
@[simp] theorem countFrame_sched : (countFrame s).sched = s.sched := rfl

end

section
variable (e : Event) (s : State)

@[simp] theorem recordEvent_params : (recordEvent e s).params = s.params := rfl
@[simp] theorem recordEvent_fcnt : (recordEvent e s).fcnt = s.fcnt := rfl
@[simp] theorem recordEvent_fOp : (recordEvent e s).fOp = s.fOp := rfl
@[simp] theorem recordEvent_fTgt : (recordEvent e s).fTgt = s.fTgt := rfl
@[simp] theorem recordEvent_run : (recordEvent e s).run = s.run := rfl
@[simp] theorem recordEvent_out : (recordEvent e s).out = s.out := rfl
@[simp] theorem recordEvent_tx : (recordEvent e s).tx = s.tx := rfl
@[simp] theorem recordEvent_ev : (recordEvent e s).ev = s.ev ++ [e] := rfl
@[simp] theorem recordEvent_nbytes : (recordEvent e s).nbytes = s.nbytes := rfl
@[simp] theorem recordEvent_nframes : (recordEvent e s).nframes = s.nframes := rfl
@[simp] theorem recordEvent_rx : (recordEvent e s).rx = s.rx := rfl
@[simp] theorem recordEvent_sched : (recordEvent e s).sched = s.sched := rfl

end

section
variable (r : Response) (c : Option ErrorCause) (s : State)

@[simp] theorem emitResponse_params : (emitResponse r c s).params = s.params := rfl
@[simp] theorem emitResponse_fcnt : (emitResponse r c s).fcnt = s.fcnt := rfl
@[simp] theorem emitResponse_fOp : (emitResponse r c s).fOp = s.fOp := rfl
@[simp] theorem emitResponse_fTgt : (emitResponse r c s).fTgt = s.fTgt := rfl
@[simp] theorem emitResponse_run : (emitResponse r c s).run = s.run := rfl
@[simp] theorem emitResponse_out : (emitResponse r c s).out = s.out := rfl
@[simp] theorem emitResponse_tx : (emitResponse r c s).tx = s.tx ++ [responseByte r] := rfl
@[simp] theorem emitResponse_ev : (emitResponse r c s).ev = s.ev ++ [.resp (responseByte r) c] := rfl
@[simp] theorem emitResponse_nbytes : (emitResponse r c s).nbytes = s.nbytes := rfl
@[simp] theorem emitResponse_nframes : (emitResponse r c s).nframes = s.nframes := rfl
@[simp] theorem emitResponse_rx : (emitResponse r c s).rx = s.rx := rfl
@[simp] theorem emitResponse_sched : (emitResponse r c s).sched = s.sched := rfl

end

section
variable (r : Response) (s : State)

@[simp] theorem respond_params : (respond r s).params = s.params := rfl
@[simp] theorem respond_fcnt : (respond r s).fcnt = s.fcnt := rfl
@[simp] theorem respond_fOp : (respond r s).fOp = s.fOp := rfl
@[simp] theorem respond_fTgt : (respond r s).fTgt = s.fTgt := rfl
@[simp] theorem respond_run : (respond r s).run = s.run := rfl
@[simp] theorem respond_out : (respond r s).out = s.out := rfl
@[simp] theorem respond_tx : (respond r s).tx = s.tx ++ [responseByte r] := rfl
@[simp] theorem respond_ev : (respond r s).ev = s.ev ++ [.resp (responseByte r) none] := rfl
@[simp] theorem respond_nbytes : (respond r s).nbytes = s.nbytes := rfl
@[simp] theorem respond_nframes : (respond r s).nframes = s.nframes := rfl
@[simp] theorem respond_rx : (respond r s).rx = s.rx := rfl
@[simp] theorem respond_sched : (respond r s).sched = s.sched := rfl

end

section
variable (m : Motor) (d : BitVec 10) (s : State)

@[simp] theorem writePwm_params : (writePwm m d s).params = s.params := rfl
@[simp] theorem writePwm_fcnt : (writePwm m d s).fcnt = s.fcnt := rfl
@[simp] theorem writePwm_fOp : (writePwm m d s).fOp = s.fOp := rfl
@[simp] theorem writePwm_fTgt : (writePwm m d s).fTgt = s.fTgt := rfl
@[simp] theorem writePwm_run : (writePwm m d s).run = s.run := rfl
@[simp] theorem writePwm_out : (writePwm m d s).out = putPwm s.out m d := rfl
@[simp] theorem writePwm_tx : (writePwm m d s).tx = s.tx := rfl
@[simp] theorem writePwm_ev : (writePwm m d s).ev = s.ev ++ [.writePwm m d] := rfl
@[simp] theorem writePwm_nbytes : (writePwm m d s).nbytes = s.nbytes := rfl
@[simp] theorem writePwm_nframes : (writePwm m d s).nframes = s.nframes := rfl
@[simp] theorem writePwm_rx : (writePwm m d s).rx = s.rx := rfl
@[simp] theorem writePwm_sched : (writePwm m d s).sched = s.sched := rfl

end

section
variable (t : Tag) (b : Bool) (s : State)

@[simp] theorem writeDig_params : (writeDig t b s).params = s.params := rfl
@[simp] theorem writeDig_fcnt : (writeDig t b s).fcnt = s.fcnt := rfl
@[simp] theorem writeDig_fOp : (writeDig t b s).fOp = s.fOp := rfl
@[simp] theorem writeDig_fTgt : (writeDig t b s).fTgt = s.fTgt := rfl
@[simp] theorem writeDig_run : (writeDig t b s).run = s.run := rfl
@[simp] theorem writeDig_out : (writeDig t b s).out = putDig s.out t b := rfl
@[simp] theorem writeDig_tx : (writeDig t b s).tx = s.tx := rfl
@[simp] theorem writeDig_ev : (writeDig t b s).ev = s.ev ++ [.writeDig t b] := rfl
@[simp] theorem writeDig_nbytes : (writeDig t b s).nbytes = s.nbytes := rfl
@[simp] theorem writeDig_nframes : (writeDig t b s).nframes = s.nframes := rfl
@[simp] theorem writeDig_rx : (writeDig t b s).rx = s.rx := rfl
@[simp] theorem writeDig_sched : (writeDig t b s).sched = s.sched := rfl

end

section
variable (d : BitVec 16) (s : State)

@[simp] theorem writeServo_params : (writeServo d s).params = s.params := rfl
@[simp] theorem writeServo_fcnt : (writeServo d s).fcnt = s.fcnt := rfl
@[simp] theorem writeServo_fOp : (writeServo d s).fOp = s.fOp := rfl
@[simp] theorem writeServo_fTgt : (writeServo d s).fTgt = s.fTgt := rfl
@[simp] theorem writeServo_run : (writeServo d s).run = s.run := rfl
@[simp] theorem writeServo_out : (writeServo d s).out = putServo s.out d := rfl
@[simp] theorem writeServo_tx : (writeServo d s).tx = s.tx := rfl
@[simp] theorem writeServo_ev : (writeServo d s).ev = s.ev ++ [.writeServo d] := rfl
@[simp] theorem writeServo_nbytes : (writeServo d s).nbytes = s.nbytes := rfl
@[simp] theorem writeServo_nframes : (writeServo d s).nframes = s.nframes := rfl
@[simp] theorem writeServo_rx : (writeServo d s).rx = s.rx := rfl
@[simp] theorem writeServo_sched : (writeServo d s).sched = s.sched := rfl

end

section
variable (c : BitVec 24) (s : State)

@[simp] theorem writeNeo_params : (writeNeo c s).params = s.params := rfl
@[simp] theorem writeNeo_fcnt : (writeNeo c s).fcnt = s.fcnt := rfl
@[simp] theorem writeNeo_fOp : (writeNeo c s).fOp = s.fOp := rfl
@[simp] theorem writeNeo_fTgt : (writeNeo c s).fTgt = s.fTgt := rfl
@[simp] theorem writeNeo_run : (writeNeo c s).run = s.run := rfl
@[simp] theorem writeNeo_out : (writeNeo c s).out = putNeo s.out c := rfl
@[simp] theorem writeNeo_tx : (writeNeo c s).tx = s.tx := rfl
@[simp] theorem writeNeo_ev : (writeNeo c s).ev = s.ev ++ [.writeNeo c] := rfl
@[simp] theorem writeNeo_nbytes : (writeNeo c s).nbytes = s.nbytes := rfl
@[simp] theorem writeNeo_nframes : (writeNeo c s).nframes = s.nframes := rfl
@[simp] theorem writeNeo_rx : (writeNeo c s).rx = s.rx := rfl
@[simp] theorem writeNeo_sched : (writeNeo c s).sched = s.sched := rfl

end

section
variable (c : ErrorCause) (s : State)

@[simp] theorem protocolError_params : (protocolError c s).params = s.params := rfl
@[simp] theorem protocolError_fcnt : (protocolError c s).fcnt = s.fcnt := rfl
@[simp] theorem protocolError_fOp : (protocolError c s).fOp = s.fOp := rfl
@[simp] theorem protocolError_fTgt : (protocolError c s).fTgt = s.fTgt := rfl
@[simp] theorem protocolError_run : (protocolError c s).run = s.run := rfl
@[simp] theorem protocolError_out : (protocolError c s).out = s.out := rfl
@[simp] theorem protocolError_tx : (protocolError c s).tx = s.tx ++ [0xEE] := rfl
@[simp] theorem protocolError_ev : (protocolError c s).ev = s.ev ++ [.resp 0xEE (some c)] := rfl
@[simp] theorem protocolError_nbytes : (protocolError c s).nbytes = s.nbytes := rfl
@[simp] theorem protocolError_nframes : (protocolError c s).nframes = s.nframes := rfl
@[simp] theorem protocolError_rx : (protocolError c s).rx = s.rx := rfl
@[simp] theorem protocolError_sched : (protocolError c s).sched = s.sched := rfl

end

section
variable (s : State)

@[simp] theorem restartRequest_params : (restartRequest s).params = s.params := rfl
@[simp] theorem restartRequest_fcnt : (restartRequest s).fcnt = s.fcnt := rfl
@[simp] theorem restartRequest_fOp : (restartRequest s).fOp = s.fOp := rfl
@[simp] theorem restartRequest_fTgt : (restartRequest s).fTgt = s.fTgt := rfl
@[simp] theorem restartRequest_run : (restartRequest s).run = .restartPending := rfl
@[simp] theorem restartRequest_out : (restartRequest s).out = s.out := rfl
@[simp] theorem restartRequest_tx : (restartRequest s).tx = s.tx := rfl
@[simp] theorem restartRequest_ev : (restartRequest s).ev = s.ev ++ [.restartReq] := rfl
@[simp] theorem restartRequest_nbytes : (restartRequest s).nbytes = s.nbytes := rfl
@[simp] theorem restartRequest_nframes : (restartRequest s).nframes = s.nframes := rfl
@[simp] theorem restartRequest_rx : (restartRequest s).rx = s.rx := rfl
@[simp] theorem restartRequest_sched : (restartRequest s).sched = s.sched := rfl

end

/-! Registers: what a write leaves in the register written and in the others. -/

@[simp] theorem bankGet_bankSet_same {α : Type} (b : MotorBank α) (m : Motor) (v : α) :
    bankGet (bankSet b m v) m = v := by cases m <;> rfl

theorem bankGet_bankSet_other {α : Type} (b : MotorBank α) {m m' : Motor} (v : α) (h : m' ≠ m) :
    bankGet (bankSet b m v) m' = bankGet b m' := by
  cases m <;> cases m' <;> first | exact absurd rfl h | rfl

@[simp] theorem pairGet_pairSet_same {α : Type} (p : TerminalPair α) (t : Terminal) (v : α) :
    pairGet (pairSet p t v) t = v := by cases t <;> rfl

theorem pairGet_pairSet_other {α : Type} (p : TerminalPair α) {t t' : Terminal} (v : α) (h : t' ≠ t) :
    pairGet (pairSet p t v) t' = pairGet p t' := by
  cases t <;> cases t' <;> first | exact absurd rfl h | rfl

section
variable (r : OutRegs) (m : Motor) (d : BitVec 10) (t : Tag) (b : Bool)

@[simp] theorem putPwm_dig : (putPwm r m d).dig = r.dig := rfl
@[simp] theorem putPwm_servo : (putPwm r m d).servo = r.servo := rfl
@[simp] theorem putPwm_neo : (putPwm r m d).neo = r.neo := rfl
@[simp] theorem putDig_pwm : (putDig r t b).pwm = r.pwm := rfl
@[simp] theorem putDig_servo : (putDig r t b).servo = r.servo := rfl
@[simp] theorem putDig_neo : (putDig r t b).neo = r.neo := rfl
@[simp] theorem readDig_putPwm (t' : Tag) : readDig (putPwm r m d) t' = readDig r t' := rfl
@[simp] theorem readPwm_putDig (m' : Motor) : readPwm (putDig r t b) m' = readPwm r m' := rfl

@[simp] theorem putServo_pwm (d : BitVec 16) : (putServo r d).pwm = r.pwm := rfl
@[simp] theorem putServo_dig (d : BitVec 16) : (putServo r d).dig = r.dig := rfl
@[simp] theorem putServo_servo (d : BitVec 16) : (putServo r d).servo = d := rfl
@[simp] theorem putServo_neo (d : BitVec 16) : (putServo r d).neo = r.neo := rfl
@[simp] theorem putNeo_pwm (c : BitVec 24) : (putNeo r c).pwm = r.pwm := rfl
@[simp] theorem putNeo_dig (c : BitVec 24) : (putNeo r c).dig = r.dig := rfl
@[simp] theorem putNeo_servo (c : BitVec 24) : (putNeo r c).servo = r.servo := rfl
@[simp] theorem putNeo_neo (c : BitVec 24) : (putNeo r c).neo = c := rfl
@[simp] theorem readPwm_putServo (d : BitVec 16) : readPwm (putServo r d) m = readPwm r m := rfl
@[simp] theorem readDig_putServo (d : BitVec 16) : readDig (putServo r d) t = readDig r t := rfl
@[simp] theorem readPwm_putNeo (c : BitVec 24) : readPwm (putNeo r c) m = readPwm r m := rfl
@[simp] theorem readDig_putNeo (c : BitVec 24) : readDig (putNeo r c) t = readDig r t := rfl
@[simp] theorem putServo_putServo (d d' : BitVec 16) : putServo (putServo r d) d' = putServo r d' := rfl
@[simp] theorem putNeo_putNeo (c c' : BitVec 24) : putNeo (putNeo r c) c' = putNeo r c' := rfl

@[simp] theorem readPwm_putPwm_same : readPwm (putPwm r m d) m = d := bankGet_bankSet_same _ _ _

@[simp] theorem readDig_putDig_same : readDig (putDig r t b) t = b := by simp [readDig, putDig]

end

/-- The last write of a register wins. -/
@[simp] theorem putPwm_putPwm_same (r : OutRegs) (m : Motor) (d d' : BitVec 10) :
    putPwm (putPwm r m d) m d' = putPwm r m d' := by cases m <;> rfl

@[simp] theorem putDig_putDig_same (r : OutRegs) (t : Tag) (b b' : Bool) :
    putDig (putDig r t b) t b' = putDig r t b' := by
  obtain ⟨m, e⟩ := t
  cases m <;> cases e <;> rfl

theorem readPwm_putPwm_other (r : OutRegs) {m m' : Motor} (d : BitVec 10) (h : m' ≠ m) :
    readPwm (putPwm r m d) m' = readPwm r m' := bankGet_bankSet_other _ _ h

theorem readDig_putDig_other (r : OutRegs) {t t' : Tag} (b : Bool) (h : t' ≠ t) :
    readDig (putDig r t b) t' = readDig r t' := by
  obtain ⟨m, e⟩ := t
  obtain ⟨m', e'⟩ := t'
  by_cases hm : m' = m
  · subst hm
    have he : e' ≠ e := fun he => h (by rw [he])
    simp [readDig, putDig, pairGet_pairSet_other _ _ he]
  · simp [readDig, putDig, bankGet_bankSet_other _ _ hm]

end Sys2Proof.Machine
end

