-- ==== Sys2Proof/Laws/Exec.lean ====
section
/-! SUPPORT. Each meaning once: the state it answers, case by case, and one inversion lemma for `exec`. -/

namespace Sys2Proof.Machine

section
variable (s : State) (tgt val : Byte)

theorem execPwm_valid {tgt : Byte} {m : Motor} (h : pwmTarget? tgt = some m) :
    execPwm tgt val s =
      .next (respond .pwmOk (writePwm m (pwmScale s.params.scaleRounding val) (countFrame s))) := by
  simp [execPwm, h]

theorem execPwm_invalid {tgt : Byte} (h : pwmTarget? tgt = none) :
    execPwm tgt val s = .next (protocolError .invalidPwmTarget (countFrame s)) := by
  simp [execPwm, h]

theorem execDigital_valid {tgt : Byte} {t : Tag} (h : digTarget? tgt = some t) :
    execDigital tgt val s = .next (respond .digitalOk (writeDig t (digLevel val) (countFrame s))) := by
  simp [execDigital, h]

theorem execDigital_invalid {tgt : Byte} (h : digTarget? tgt = none) :
    execDigital tgt val s = .next (protocolError .invalidDigitalTarget (countFrame s)) := by
  simp [execDigital, h]

theorem execServo_next :
    execServo tgt val s =
      .next (respond .servoOk (writeServo (servoScale s.params.scaleRounding val) (countFrame s))) := rfl

theorem execNeopixel_valid {val : Byte} {c : Colour} (h : colourOf? val = some c) :
    execNeopixel tgt val s =
      .next (respond .neopixelOk (writeNeo (colourRgb s.params.neoLevel c) (countFrame s))) := by
  simp [execNeopixel, h]

theorem execNeopixel_invalid {val : Byte} (h : colourOf? val = none) :
    execNeopixel tgt val s = .next (protocolError .unmatchedNeopixelValue (countFrame s)) := by
  simp [execNeopixel, h]

theorem execPing_next : execPing tgt val s = .next (respond .ready (countFrame s)) := rfl

theorem execReset_next :
    execReset tgt val s = .next (restartRequest (respond .resetOk (countFrame s))) := rfl

theorem execIllegal_next (op : Byte) :
    execIllegal op tgt val s = .next (protocolError .unknownOpcode (countFrame s)) := rfl

end

/-- Everything an instruction can do: the state `exec` answers is one of these. -/
inductive ExecEffect (s : State) : Instr → State → Prop
  | pwm {tgt val : Byte} {m : Motor} (h : pwmTarget? tgt = some m) :
      ExecEffect s (.pwm tgt val)
        (respond .pwmOk (writePwm m (pwmScale s.params.scaleRounding val) (countFrame s)))
  | digital {tgt val : Byte} {t : Tag} (h : digTarget? tgt = some t) :
      ExecEffect s (.digital tgt val) (respond .digitalOk (writeDig t (digLevel val) (countFrame s)))
  | servo {tgt val : Byte} :
      ExecEffect s (.servo tgt val)
        (respond .servoOk (writeServo (servoScale s.params.scaleRounding val) (countFrame s)))
  | neopixel {tgt val : Byte} {c : Colour} (h : colourOf? val = some c) :
      ExecEffect s (.neopixel tgt val)
        (respond .neopixelOk (writeNeo (colourRgb s.params.neoLevel c) (countFrame s)))
  | ping {tgt val : Byte} : ExecEffect s (.ping tgt val) (respond .ready (countFrame s))
  | reset {tgt val : Byte} :
      ExecEffect s (.reset tgt val) (restartRequest (respond .resetOk (countFrame s)))
  | error {i : Instr} {c : ErrorCause} (h : errorCause? i = some c) :
      ExecEffect s i (protocolError c (countFrame s))

theorem exec_effect (i : Instr) (s : State) : ∃ t, exec i s = .next t ∧ ExecEffect s i t := by
  cases i with
  | pwm tgt val =>
    cases h : pwmTarget? tgt with
    | some m => exact ⟨_, execPwm_valid s val h, .pwm h⟩
    | none => exact ⟨_, execPwm_invalid s val h, .error (by simp [errorCause?, h])⟩
  | digital tgt val =>
    cases h : digTarget? tgt with
    | some t => exact ⟨_, execDigital_valid s val h, .digital h⟩
    | none => exact ⟨_, execDigital_invalid s val h, .error (by simp [errorCause?, h])⟩
  | servo tgt val => exact ⟨_, rfl, .servo⟩
  | neopixel tgt val =>
    cases h : colourOf? val with
    | some c => exact ⟨_, execNeopixel_valid s tgt h, .neopixel h⟩
    | none => exact ⟨_, execNeopixel_invalid s tgt h, .error (by simp [errorCause?, h])⟩
  | ping tgt val => exact ⟨_, rfl, .ping⟩
  | reset tgt val => exact ⟨_, rfl, .reset⟩
  | illegal op tgt val => exact ⟨_, rfl, .error (c := .unknownOpcode) rfl⟩

theorem exec_cases {i : Instr} {s t : State} (h : exec i s = .next t) : ExecEffect s i t := by
  obtain ⟨u, hu, he⟩ := exec_effect i s
  obtain rfl : u = t := by simpa [hu] using h
  exact he

/-- What every instruction leaves alone. -/
theorem ExecEffect.kept {s t : State} {i : Instr} (h : ExecEffect s i t) : KeptByFrame s t := by
  cases h <;> constructor <;> simp

end Sys2Proof.Machine
end

