-- ==== Sys2Proof/Laws/PerInstr.lean ====
section
/-! SUPPORT. The per-instruction family `FrameShape`: every instruction's encoding is the three bytes of format F3
(30_encoding.md R50), its opcode byte the one its row defines. -/

namespace Sys2Proof.Laws.FrameShape

/-- The encoding is `[op, tgt, val]`, where `op` is the byte of the instruction's opcode if it has one. -/
def Statement (i : Instr) : Prop :=
  encode i = [i.frame.op, i.frame.tgt, i.frame.val] ∧ ∀ o, i.opcode? = some o → i.frame.op = o.byte

theorem pwm (tgt val : Byte) : Statement (.pwm tgt val) := ⟨rfl, by rintro o ⟨⟩; rfl⟩
theorem digital (tgt val : Byte) : Statement (.digital tgt val) := ⟨rfl, by rintro o ⟨⟩; rfl⟩
theorem servo (tgt val : Byte) : Statement (.servo tgt val) := ⟨rfl, by rintro o ⟨⟩; rfl⟩
theorem neopixel (tgt val : Byte) : Statement (.neopixel tgt val) := ⟨rfl, by rintro o ⟨⟩; rfl⟩
theorem ping (tgt val : Byte) : Statement (.ping tgt val) := ⟨rfl, by rintro o ⟨⟩; rfl⟩
theorem reset (tgt val : Byte) : Statement (.reset tgt val) := ⟨rfl, by rintro o ⟨⟩; rfl⟩
theorem illegal (op tgt val : Byte) : Statement (.illegal op tgt val) := ⟨rfl, by rintro o ⟨⟩⟩

end Sys2Proof.Laws.FrameShape
end

