-- ==== Sys2Proof/Laws/Step.lean ====
section
/-! SUPPORT. One step: accepting a byte, demultiplexing it, the environment's turns, and one inversion lemma for
`step`. -/

namespace Sys2Proof.Machine

theorem acceptByte?_running {s : State} {b : Byte} {rest : List Byte} (hr : s.run = .running)
    (hx : s.rx = b :: rest) :
    acceptByte? s = some (b, { s with rx := rest, nbytes := s.nbytes + 1 }) := by
  simp [acceptByte?, hr, hx]

theorem acceptByte?_pending {s : State} (hr : s.run = .restartPending) : acceptByte? s = none := by
  simp [acceptByte?, hr]

theorem acceptByte?_noByte {s : State} (hx : s.rx = []) : acceptByte? s = none := by
  simp [acceptByte?, hx]

/-! Whose turn it is. -/

theorem nextTurn_blockMoves {s : State} (h : s.blockMoves) :
    nextTurn s = (.block, { s with sched := s.sched.tail }) := by
  obtain ⟨⟩ := s
  rcases h with h | ⟨ts, h⟩ <;> (obtain rfl : _ = _ := h; rfl)

theorem nextTurn_cons {s : State} {t : Turn} {ts : List Turn} (h : s.sched = t :: ts) :
    nextTurn s = (t, { s with sched := ts }) := by
  simp [nextTurn, h]

theorem step_blockMoves {s : State} (h : s.blockMoves) :
    step s = blockTurn { s with sched := s.sched.tail } := by
  simp only [step, nextTurn_blockMoves h]

theorem step_send {s : State} {b : Byte} {ts : List Turn} (h : s.sched = .send b :: ts) :
    step s = .next (hostSend b { s with sched := ts }) := by
  simp only [step, nextTurn_cons h]

theorem step_rst {s : State} {lost : Nat} {ts : List Turn} (h : s.sched = .rst lost :: ts) :
    step s = .next (applyRst lost { s with sched := ts }) := by
  simp only [step, nextTurn_cons h]

/-- The block's step, by what it accepts. -/
theorem step_idle {s : State} (hb : s.blockMoves) (h : s.run = .restartPending ∨ s.rx = []) :
    step s = .next { s with sched := s.sched.tail } := by
  have hn : acceptByte? { s with sched := s.sched.tail } = none := by
    rcases h with h | h
    · exact acceptByte?_pending h
    · exact acceptByte?_noByte h
  rw [step_blockMoves hb, blockTurn, hn]

theorem step_opcode {s : State} {b : Byte} {rest : List Byte} (hb : s.blockMoves) (hr : s.run = .running)
    (hx : s.rx = b :: rest) (hc : s.fcnt = .zero) :
    step s =
      .next { s with fcnt := .one, fOp := b, nbytes := s.nbytes + 1, rx := rest, sched := s.sched.tail } := by
  rw [step_blockMoves hb, blockTurn, acceptByte?_running (s := { s with sched := s.sched.tail }) hr hx]
  simp [demux, hc]

theorem step_target {s : State} {b : Byte} {rest : List Byte} (hb : s.blockMoves) (hr : s.run = .running)
    (hx : s.rx = b :: rest) (hc : s.fcnt = .one) :
    step s =
      .next { s with fcnt := .two, fTgt := b, nbytes := s.nbytes + 1, rx := rest, sched := s.sched.tail } := by
  rw [step_blockMoves hb, blockTurn, acceptByte?_running (s := { s with sched := s.sched.tail }) hr hx]
  simp [demux, hc]

theorem step_value {s : State} {b : Byte} {rest : List Byte} (hb : s.blockMoves) (hr : s.run = .running)
    (hx : s.rx = b :: rest) (hc : s.fcnt = .two) :
    step s = exec (decodeFrame ⟨s.fOp, s.fTgt, b⟩)
      { s with fcnt := .zero, nbytes := s.nbytes + 1, rx := rest, sched := s.sched.tail } := by
  rw [step_blockMoves hb, blockTurn, acceptByte?_running (s := { s with sched := s.sched.tail }) hr hx]
  simp [demux, hc]

/-- Everything a step can do. -/
inductive StepEffect (s : State) : State → Prop
  /-- No byte is accepted: none is offered, or RUN = RESTART_PENDING. -/
  | idle (hb : s.blockMoves) (h : s.run = .restartPending ∨ s.rx = []) :
      StepEffect s { s with sched := s.sched.tail }
  | opcode {b : Byte} {rest : List Byte} (hb : s.blockMoves) (hr : s.run = .running) (hx : s.rx = b :: rest)
      (hc : s.fcnt = .zero) :
      StepEffect s
        { s with fcnt := .one, fOp := b, nbytes := s.nbytes + 1, rx := rest, sched := s.sched.tail }
  | target {b : Byte} {rest : List Byte} (hb : s.blockMoves) (hr : s.run = .running) (hx : s.rx = b :: rest)
      (hc : s.fcnt = .one) :
      StepEffect s
        { s with fcnt := .two, fTgt := b, nbytes := s.nbytes + 1, rx := rest, sched := s.sched.tail }
  | frame {b : Byte} {rest : List Byte} {t : State} (hb : s.blockMoves) (hr : s.run = .running)
      (hx : s.rx = b :: rest) (hc : s.fcnt = .two)
      (he : exec (decodeFrame ⟨s.fOp, s.fTgt, b⟩)
        { s with fcnt := .zero, nbytes := s.nbytes + 1, rx := rest, sched := s.sched.tail } = .next t) :
      StepEffect s t
  | send {b : Byte} {ts : List Turn} (hs : s.sched = .send b :: ts) :
      StepEffect s (hostSend b { s with sched := ts })
  | rst {lost : Nat} {ts : List Turn} (hs : s.sched = .rst lost :: ts) :
      StepEffect s (applyRst lost { s with sched := ts })

theorem step_effect_block {s : State} (hb : s.blockMoves) : ∃ t, step s = .next t ∧ StepEffect s t := by
  cases hr : s.run with
  | restartPending => exact ⟨_, step_idle hb (.inl hr), .idle hb (.inl hr)⟩
  | running =>
    cases hx : s.rx with
    | nil => exact ⟨_, step_idle hb (.inr hx), .idle hb (.inr hx)⟩
    | cons b rest =>
      cases hc : s.fcnt with
      | zero => exact ⟨_, step_opcode hb hr hx hc, .opcode hb hr hx hc⟩
      | one => exact ⟨_, step_target hb hr hx hc, .target hb hr hx hc⟩
      | two =>
        obtain ⟨t, ht, -⟩ := exec_effect (decodeFrame ⟨s.fOp, s.fTgt, b⟩)
          { s with fcnt := .zero, nbytes := s.nbytes + 1, rx := rest, sched := s.sched.tail }
        exact ⟨t, by rw [step_value hb hr hx hc, ht], .frame hb hr hx hc ht⟩

theorem step_effect (s : State) : ∃ t, step s = .next t ∧ StepEffect s t := by
  cases hs : s.sched with
  | nil => exact step_effect_block (.inl hs)
  | cons turn ts =>
    cases turn with
    | block => exact step_effect_block (.inr ⟨ts, hs⟩)
    | send b => exact ⟨_, step_send hs, .send hs⟩
    | rst lost => exact ⟨_, step_rst hs, .rst hs⟩

theorem step_cases {s t : State} (h : step s = .next t) : StepEffect s t := by
  obtain ⟨u, hu, he⟩ := step_effect s
  obtain rfl : u = t := by simpa [hu] using h
  exact he

theorem rstIn_blockMoves {s : State} (h : s.blockMoves) : rstIn s = false := by
  simp [rstIn, nextTurn_blockMoves h]

theorem rstIn_send {s : State} {b : Byte} {ts : List Turn} (h : s.sched = .send b :: ts) : rstIn s = false := by
  simp [rstIn, nextTurn_cons h]

theorem rstIn_rst {s : State} {lost : Nat} {ts : List Turn} (h : s.sched = .rst lost :: ts) :
    rstIn s = true := by
  simp [rstIn, nextTurn_cons h]

/-! The environment's turns. -/

/-- What the transport makes of a byte sent: it queues it or, with no room, drops it. -/
theorem hostSend_cases (b : Byte) (s : State) :
    hostSend b s = { s with rx := s.rx ++ [b] } ∨ (hasRoom s = false ∧ hostSend b s = s) := by
  unfold hostSend
  cases hasRoom s <;> simp

theorem hostSend_sameBlock (b : Byte) (s : State) : SameBlock s (hostSend b s) := by
  rcases hostSend_cases b s with h | ⟨-, h⟩ <;> rw [h] <;> constructor <;> rfl

/-- The state after `rst`, by BOOT_ANNOUNCE. -/
theorem applyRst_eq (lost : Nat) (s : State) :
    applyRst lost s =
      { s with
        fcnt := .zero, fOp := 0x00, fTgt := 0x00, run := .running, out := s.params.resetValues,
        tx := (match s.params.bootAnnounce with | .none => [] | .ready => [0xAA]),
        ev := (match s.params.bootAnnounce with | .none => [] | .ready => [.resp 0xAA none]),
        nbytes := 0, nframes := 0, rx := survivors s.params.resetRxPolicy lost s.rx } := by
  cases h : s.params.bootAnnounce <;> simp [applyRst, bootAnnouncement, h, responseByte, respond, emitResponse, recordEvent]

end Sys2Proof.Machine
end

