-- ==== Sys2Proof/Laws/Run.lean ====
section
/-! SUPPORT. Runs of several steps. -/

namespace Sys2Proof.Machine

@[simp] theorem runSteps_zero (s : State) : runSteps 0 s = .next s := rfl

theorem runSteps_succ {s t : State} (k : Nat) (h : step s = .next t) : runSteps (k + 1) s = runSteps k t := by
  have hc : Sys2Proof.core.step s = .next t := h
  simp only [runSteps, Host.Core.run, hc]
  rfl

theorem runSteps_add {s t : State} {a : Nat} (b : Nat) (h : runSteps a s = .next t) :
    runSteps (a + b) s = runSteps b t := by
  induction a generalizing s with
  | zero =>
    obtain rfl : s = t := by simpa using h
    rw [Nat.zero_add]
  | succ a ih =>
    obtain ⟨u, hu, -⟩ := step_effect s
    rw [runSteps_succ a hu] at h
    rw [Nat.succ_add, runSteps_succ (a + b) hu]
    exact ih h

/-- With no turn scheduled, a block that accepts nothing stays as it is. -/
theorem runSteps_idle {s : State} (hs : s.sched = []) (h : s.run = .restartPending ∨ s.rx = []) (n : Nat) :
    runSteps n s = .next s := by
  have hself : { s with sched := s.sched.tail } = s := by
    obtain ⟨⟩ := s
    obtain rfl : _ = [] := hs
    rfl
  induction n with
  | zero => rfl
  | succ n ih => rw [runSteps_succ n ((step_idle (.inl hs) h).trans (by rw [hself])), ih]

end Sys2Proof.Machine
end

