-- ==== Sys2Proof/Tests/Slice0.lean ====
section
/-! SUPPORT. Tests. Every expected value is one of spec/95_test_vectors.md (its section is named) or is read from
the rule named; none is this model's own answer. The `witness_` theorems show that the hypotheses of the
statements can be met, clause by clause, at the ends of their ranges. -/

namespace Sys2Proof.Tests

open Sys2Proof Sys2Proof.Machine

/-! ## Helpers -/

/-- The state a step answered. -/
def after : Host.Outcome State Fault Refusal → Option State
  | .next t => some t
  | .fault _ => none
  | .refused _ => none

/-- One step of the machine with the frame word `w` placed next, from `s`. -/
def ran (s : State) (w : Nat) : Option State := after (step (s.withFetchWord 24 w))

/-- The reset state with two bytes held and `rest` offered. -/
def held (op tgt : Byte) (rest : List Byte) : State :=
  { State.reset with fcnt := .two, fOp := op, fTgt := tgt, nbytes := 2, rx := rest }

/-- The reset state with the indicator green and PWM channel 1 at 514. -/
def busy : State := { State.reset with out := putPwm (putNeo zeroRegs 0x00FF00) .m1 514 }

/-- The state after the one frame `[04 00 FF]` (section 2.6: NEO_RGB = 0xFFFFFF, TX = 04). -/
def white : State :=
  { State.reset with
    out := putNeo zeroRegs 0xFFFFFF, tx := [0x04], ev := [.writeNeo 0xFFFFFF, .resp 0x04 none],
    nbytes := 3, nframes := 1 }

/-! ## Well-formedness (30_encoding.md R51, R54) -/

theorem test_illformed_pwm_opcode : (Instr.illegal 0x01 0x00 0x00).wellFormed = false := by decide
theorem test_illformed_digital_opcode : (Instr.illegal 0x02 0x00 0x00).wellFormed = false := by decide
theorem test_illformed_servo_opcode : (Instr.illegal 0x03 0x00 0x00).wellFormed = false := by decide
theorem test_illformed_neopixel_opcode : (Instr.illegal 0x04 0x00 0x00).wellFormed = false := by decide
theorem test_illformed_ping_opcode : (Instr.illegal 0xF0 0x00 0x00).wellFormed = false := by decide
theorem test_illformed_reset_opcode : (Instr.illegal 0xFF 0x00 0x00).wellFormed = false := by decide
theorem test_wellformed_illegal : (Instr.illegal 0x00 0x00 0x00).wellFormed = true := by decide

/-! ## Decoding: words written out from F = op ‖ tgt ‖ val (30_encoding.md R50, R51) -/

theorem test_decode_pwm :
    decodeTableWord 24 0b00000001_00000010_10000000 = some (.pwm 0x02 0x80) := by decide
theorem test_decode_digital :
    decodeTableWord 24 0b00000010_00100001_00000001 = some (.digital 0x21 0x01) := by decide
theorem test_decode_servo :
    decodeTableWord 24 0b00000011_00000000_01011010 = some (.servo 0x00 0x5A) := by decide
theorem test_decode_neopixel :
    decodeTableWord 24 0b00000100_00000000_11111111 = some (.neopixel 0x00 0xFF) := by decide
theorem test_decode_ping :
    decodeTableWord 24 0b11110000_00000001_10000000 = some (.ping 0x01 0x80) := by decide
theorem test_decode_reset :
    decodeTableWord 24 0b11111111_00010010_00110100 = some (.reset 0x12 0x34) := by decide
theorem test_decode_illegal :
    decodeTableWord 24 0b01110111_00010010_00110100 = some (.illegal 0x77 0x12 0x34) := by decide
theorem test_decode_illegal_zero : decodeTableWord 24 0 = some (.illegal 0x00 0x00 0x00) := by decide

/-- The bytes arrive opcode, target, value (20_memory.md R33); section 1.1. -/
theorem test_decode_bytes : decode [0x01, 0x02, 0x80, 0x02] = .instr (.pwm 0x02 0x80) [0x02] := by decide
theorem test_decode_partial : decode [0x01, 0x02] = .rejected (.partialFrame 2) := by decide
theorem test_decode_too_wide : decodeTableWord 25 0x010280 = none := by decide

/-! ## One step per instruction (sections 2.2 to 2.7) -/

theorem test_pwm_half :
    (ran .reset 0x010280).map (fun t => (readPwm t.out .m2, t.tx, t.ev)) =
      some (514, [0x01], [.writePwm .m2 514, .resp 0x01 none]) := by decide
theorem test_pwm_invalid_target :
    (ran busy 0x010910).map (fun t => (t.out, t.tx, t.ev)) = some (busy.out, [0xEE], [.resp 0xEE (some .invalidPwmTarget)]) := by
  decide
theorem test_digital_high :
    (ran .reset 0x022101).map (fun t => (readDig t.out ⟨.m2, .t1⟩, readDig t.out ⟨.m2, .t2⟩, t.tx)) =
      some (true, false, [0x02]) := by decide
theorem test_digital_terminal_three :
    (ran busy 0x021301).map (fun t => (t.out, t.tx, t.ev)) = some (busy.out, [0xEE], [.resp 0xEE (some .invalidDigitalTarget)]) := by
  decide
theorem test_servo_tie_goes_up :
    (ran .reset 0x03002D).map (fun t => (t.out.servo, t.tx)) = some (3277, [0x03]) := by decide
theorem test_servo_beyond_the_domain :
    (ran busy 0x0301FF).map (fun t => (t.out.servo, readPwm t.out .m1)) = some (10923, 514) := by decide
theorem test_neopixel_red_target_ignored :
    (ran .reset 0x047701).map (fun t => (t.out.neo, t.tx, t.ev)) =
      some (0xFF0000, [0x04], [.writeNeo 0xFF0000, .resp 0x04 none]) := by decide
theorem test_neopixel_unmatched_keeps_colour :
    (ran busy 0x0400FE).map (fun t => (t.out.neo, t.tx, t.ev)) =
      some (0x00FF00, [0xEE], [.resp 0xEE (some .unmatchedNeopixelValue)]) := by decide
theorem test_ping :
    (ran busy 0xF00180).map (fun t => (t.out, t.run, t.tx)) = some (busy.out, .running, [0xAA]) := by decide
theorem test_reset :
    (ran busy 0xFF1234).map (fun t => (t.out, t.run, t.tx, t.ev)) =
      some (busy.out, .restartPending, [0xBB], [.resp 0xBB none, .restartReq]) := by decide
theorem test_illegal :
    (ran busy 0xEE0000).map (fun t => (t.out, t.run, t.tx, t.ev)) =
      some (busy.out, .running, [0xEE], [.resp 0xEE (some .unknownOpcode)]) := by decide

/-! ## The other readings of "round" (43_servo.md R96, 93_implementation_defined.md U1, U2) -/

/-- U2: at 45 the exact half lies between 3276 and 3277. -/
theorem test_servo_tie_to_even : servoScale .nearestEven 0x2D = 3276 := by decide
/-- Section 2.1: floor is one less at 128. -/
theorem test_pwm_floor : pwmScale .floor 0x80 = 513 := by decide

/-! ## The frame_decoder, the transport and reset (section 2.8) -/

theorem test_illegal_opcode_byte_is_only_held :
    (after (step { State.reset with rx := [0x77] })).map (fun t => (t.fcnt, t.fOp, t.tx)) =
      some (.one, 0x77, []) := by decide
theorem test_held_frame_completes :
    (after (step (held 0x01 0x02 [0x80, 0x02]))).map (fun t => (t.fcnt, readPwm t.out .m2, t.tx, t.rx)) =
      some (.zero, 514, [0x01], [0x02]) := by decide
theorem test_nothing_accepted_while_restart_pending :
    (after (step { held 0x01 0x02 [0x80] with run := .restartPending })).map (fun t => (t.rx, t.nbytes, t.tx)) =
      some ([0x80], 2, []) := by decide
theorem test_rst_discards_the_partial_frame :
    (after (step { held 0x77 0x00 [] with sched := [.rst 0] })).map (fun t => (t.fcnt, t.fOp, t.out)) =
      some (.zero, 0x00, zeroRegs) := by decide
/-- Program P4's variant: `any` with one byte lost. -/
theorem test_rst_any_loses_the_oldest :
    (after (step { State.reset with rx := [0xF0, 0x00, 0x00], sched := [.rst 1] })).map (·.rx) =
      some [0x00, 0x00] := by decide
/-- 70_reset_and_hazards.md R155: a byte sent into a full transport is lost. -/
theorem test_send_into_full_transport :
    (after (step { State.reset with
      params := { defaultParams with rxDepth := some 1 }, rx := [0x01], sched := [.send 0x02] })).map (·.rx) =
      some [0x01] := by decide

/-! ## The signals (10_state.md R15, R19) -/

theorem test_strobes_of_a_write :
    (pwmWe (held 0x01 0x02 [0x80]) .m2, pwmWe (held 0x01 0x02 [0x80]) .m1, txData (held 0x01 0x02 [0x80])) =
      (true, false, some 0x01) := by decide
theorem test_no_strobe_on_error :
    (pwmWe (held 0x01 0x09 [0x10]) .m1, neoShow (held 0x04 0x00 [0x07]), txData (held 0x04 0x00 [0x07])) =
      (false, false, some 0xEE) := by decide
/-- R15: tag 0x21 has flat index 2. -/
theorem test_flat_index : digOut { State.reset with out := putDig zeroRegs ⟨.m2, .t1⟩ true } 2 = some true := by
  decide
theorem test_tag_byte : tagByte ⟨.m4, .t2⟩ = 0x42 := by decide

/-! ## The assembler (section 2.9) -/

theorem test_asm_pwm : assemble ['p', 'w', 'm', ' ', '2', ' ', '1', '2', '8'] = .frame ⟨0x01, 0x02, 0x80⟩ := by
  decide
theorem test_asm_digital : assemble ['d', 'i', 'g', 'i', 't', 'a', 'l', ' ', '2', '1', ' ', '1'] =
    .frame ⟨0x02, 0x21, 0x01⟩ := by decide
theorem test_asm_digital_seventeen : assemble ['d', 'i', 'g', 'i', 't', 'a', 'l', ' ', '1', '7', ' ', '1'] =
    .frame ⟨0x02, 0x11, 0x01⟩ := by decide
theorem test_asm_truncates : assemble ['p', 'w', 'm', ' ', '3', '0', '0', ' ', '5'] =
    .frame ⟨0x01, 0x2C, 0x05⟩ := by decide
theorem test_asm_neo_ff : assemble ['n', 'e', 'o', ' ', 'f', 'f'] = .frame ⟨0x04, 0x00, 0xFF⟩ := by decide
theorem test_asm_ping : assemble ['p', 'i', 'n', 'g'] = .frame ⟨0xF0, 0x00, 0x00⟩ := by decide
theorem test_asm_reset : assemble ['r', 'e', 's', 'e', 't'] = .frame ⟨0xFF, 0x00, 0x00⟩ := by decide
theorem test_asm_status : assemble ['s', 't', 'a', 't', 'u', 's'] = .localStatus := by decide
theorem test_asm_too_few_tokens : assemble ['p', 'w', 'm', ' ', '2'] = .unrecognized := by decide
theorem test_asm_upper_case : assemble ['P', 'I', 'N', 'G'] = .unrecognized := by decide
theorem test_asm_empty : assemble [' ', ' '] = .nothing := by decide

/-! ## Witnesses -/

theorem witness_DecodeOfEncode :
    (∀ i ∈ ([.pwm 0x00 0xFF, .digital 0xFF 0x00, .servo 0xFF 0xFF, .neopixel 0x00 0x00, .ping 0x00 0xFF,
      .reset 0xFF 0x00, .illegal 0x00 0xFF 0x00, .illegal 0xFE 0x00 0xFF] : List Instr),
      i.wellFormed = true) := by decide

theorem witness_EncodeOfDecode :
    decode [0x01, 0x02, 0x80, 0xF0] = .instr (.pwm 0x02 0x80) [0xF0] ∧
    decode [0x00, 0x00, 0x00] = .instr (.illegal 0x00 0x00 0x00) [] := by decide

theorem witness_OpcodeByteSelectsInstruction :
    ∀ op ∈ ([0x00, 0x05, 0xEF, 0xF1, 0xFE] : List Byte),
      op ∉ ([0x01, 0x02, 0x03, 0x04, 0xF0, 0xFF] : List Byte) := by decide

theorem witness_DecoderTakesThreeBytes :
    ([] : List Byte).length < 3 ∧ ([0x01, 0x02] : List Byte).length < 3 ∧
    3 ≤ ([0x01, 0x02, 0x80] : List Byte).length ∧ 3 ≤ ([0x01, 0x02, 0x80, 0xF0] : List Byte).length := by decide

theorem witness_StepRunsDecodedFrame :
    (held 0xFF 0x12 [0x34]).blockMoves ∧ (held 0xFF 0x12 [0x34]).run = .running ∧
    (held 0xFF 0x12 [0x34]).fcnt = .two ∧ (held 0xFF 0x12 [0x34]).rx = 0x34 :: [] ∧
    decode [(held 0xFF 0x12 [0x34]).fOp, (held 0xFF 0x12 [0x34]).fTgt, 0x34] = .instr (.reset 0x12 0x34) [] :=
  ⟨.inl rfl, rfl, rfl, rfl, by decide⟩

theorem witness_FetchWordIsRunNext :
    decodeTableWord 24 0xFFFFFF = some (.reset 0xFF 0xFF) ∧
    decodeTableWord 0 0 = some (.illegal 0x00 0x00 0x00) := by decide

theorem witness_FirstTwoBytesAreOnlyStored :
    (∃ s : State, s.blockMoves ∧ s.run = .running ∧ s.rx = 0x77 :: [0x00] ∧ s.fcnt = .zero) ∧
    (∃ s : State, s.blockMoves ∧ s.run = .running ∧ s.rx = 0x00 :: [] ∧ s.fcnt = .one) :=
  ⟨⟨{ State.reset with rx := [0x77, 0x00], sched := [.block] }, .inr ⟨[], rfl⟩, rfl, rfl, rfl⟩,
   ⟨{ State.reset with rx := [0x00], fcnt := .one, fOp := 0x77 }, .inl rfl, rfl, rfl, rfl⟩⟩

theorem witness_NoByteNoChange : (held 0x01 0x02 []).blockMoves ∧ (held 0x01 0x02 []).rx = [] := ⟨.inl rfl, rfl⟩

theorem witness_ParametersAreConstant : ∃ t, step (held 0x01 0x02 [0x80]) = .next t := ⟨_, rfl⟩

theorem witness_PwmFrameEffect :
    (0x01 : Byte).toNat = motorIndex .m1 ∧ (0x04 : Byte).toNat = motorIndex .m4 ∧
    State.reset.params.scaleRounding = .nearestUp ∧
    ((0x00 : Byte).toNat = 0 ∨ 5 ≤ (0x00 : Byte).toNat) ∧ ((0x05 : Byte).toNat = 0 ∨ 5 ≤ (0x05 : Byte).toNat) ∧
    ((0xFF : Byte).toNat = 0 ∨ 5 ≤ (0xFF : Byte).toNat) := by decide

theorem witness_DigitalFrameEffect :
    ((0x11 : Byte).toNat / 16 = motorIndex .m1 ∧ (0x11 : Byte).toNat % 16 = terminalIndex .t1) ∧
    ((0x42 : Byte).toNat / 16 = motorIndex .m4 ∧ (0x42 : Byte).toNat % 16 = terminalIndex .t2) ∧
    ∀ tgt ∈ ([0x00, 0x01, 0x02, 0x10, 0x13, 0x15, 0x40, 0x43, 0x51, 0xFF] : List Byte),
      tgt ∉ ([0x11, 0x12, 0x21, 0x22, 0x31, 0x32, 0x41, 0x42] : List Byte) := by decide

theorem witness_ServoFrameEffect : State.reset.params.scaleRounding = .nearestUp := by decide

/-- All five codes, the lit ones with a level that is not the default. -/
theorem witness_NeopixelFrameEffect :
    let s : State := { State.reset with params := { defaultParams with neoLevel := 0x20 } }
    ∀ c ∈ ([(0x00, 0x00, 0x00, 0x00), (0x01, 0x20, 0x00, 0x00), (0x02, 0x00, 0x20, 0x00),
      (0x03, 0x00, 0x00, 0x20), (0xFF, 0x20, 0x20, 0x20)] : List (Byte × Byte × Byte × Byte)),
      c = (0x00, 0x00, 0x00, 0x00) ∨ c = (0x01, s.params.neoLevel, 0x00, 0x00) ∨
      c = (0x02, 0x00, s.params.neoLevel, 0x00) ∨ c = (0x03, 0x00, 0x00, s.params.neoLevel) ∨
      c = (0xFF, s.params.neoLevel, s.params.neoLevel, s.params.neoLevel) := by simp

theorem witness_UnmatchedColourIsRejected :
    ∀ val ∈ ([0x04, 0x07, 0x80, 0xFE] : List Byte), val ∉ ([0x00, 0x01, 0x02, 0x03, 0xFF] : List Byte) := by
  decide

theorem witness_IllegalFrameEffect :
    (0x77 : Byte) ∉ ([0x01, 0x02, 0x03, 0x04, 0xF0, 0xFF] : List Byte) ∧
    (held 0x77 0x12 [0x34]).blockMoves ∧ (held 0x77 0x12 [0x34]).run = .running ∧
    (held 0x77 0x12 [0x34]).fcnt = .two ∧ (held 0x77 0x12 [0x34]).fOp = 0x77 ∧
    (held 0x77 0x12 [0x34]).fTgt = 0x12 ∧ (held 0x77 0x12 [0x34]).rx = 0x34 :: [] :=
  ⟨by decide, .inl rfl, rfl, rfl, rfl, rfl, rfl⟩

/-- One frame of each row of 60_exceptions.md R120 (program P3), and one frame of none. -/
theorem witness_ErrorExactlyOnTheFourCauses :
    IsErrorFrame ⟨0xF1, 0x00, 0x00⟩ ∧ IsErrorFrame ⟨0x01, 0x00, 0xFF⟩ ∧ IsErrorFrame ⟨0x02, 0x51, 0x01⟩ ∧
    IsErrorFrame ⟨0x04, 0x00, 0x04⟩ ∧ ¬ IsErrorFrame ⟨0x03, 0x00, 0xFF⟩ := by
  refine ⟨⟨.unknownOpcode, by simp [HasCause]⟩, ⟨.invalidPwmTarget, rfl, by decide⟩,
    ⟨.invalidDigitalTarget, rfl, by decide⟩, ⟨.unmatchedNeopixelValue, rfl, by decide⟩, ?_⟩
  rintro ⟨cause, h⟩
  cases cause <;> simp [HasCause] at h

theorem witness_ErrorFrameIsConsumed :
    (held 0x01 0x09 [0x10, 0xF0]).blockMoves ∧ (held 0x01 0x09 [0x10, 0xF0]).run = .running ∧
    (held 0x01 0x09 [0x10, 0xF0]).fcnt = .two ∧ (held 0x01 0x09 [0x10, 0xF0]).rx = 0x10 :: [0xF0] ∧
    IsErrorFrame ⟨(held 0x01 0x09 [0x10, 0xF0]).fOp, (held 0x01 0x09 [0x10, 0xF0]).fTgt, 0x10⟩ :=
  ⟨.inl rfl, rfl, rfl, rfl, ⟨.invalidPwmTarget, rfl, by decide⟩⟩

theorem witness_OneResponsePerFrame :
    rstIn { State.reset with params := { defaultParams with bootAnnounce := .ready }, sched := [.rst 0] } = true ∧
    rstIn { State.reset with sched := [.rst 0] } = true ∧ rstIn (held 0xF0 0x00 [0x00]) = false ∧
    rstIn State.reset = false := by decide

theorem witness_EffectDependsOnTheFrameAlone : ∃ s : State, s.params = defaultParams := ⟨busy, rfl⟩

theorem witness_StrobesTellTheWrites :
    (rstIn (held 0x01 0x04 [0xFF]) = false ∧ pwmWe (held 0x01 0x04 [0xFF]) .m4 = true) ∧
    (rstIn (held 0x02 0x42 [0x01]) = false ∧ digWe (held 0x02 0x42 [0x01]) ⟨.m4, .t2⟩ = true) ∧
    (rstIn (held 0x03 0x00 [0xFF]) = false ∧ servoWe (held 0x03 0x00 [0xFF]) = true) ∧
    (rstIn (held 0x04 0x00 [0xFF]) = false ∧ neoShow (held 0x04 0x00 [0xFF]) = true) ∧
    (rstIn (held 0xF0 0x00 [0x00]) = false ∧ txValid (held 0xF0 0x00 [0x00]) = true) ∧
    (rstIn State.reset = false ∧ txValid State.reset = false) := by decide

theorem witness_ScalesRoundToNearest :
    (0x00 : Byte).toNat < (0x01 : Byte).toNat ∧ (0xFE : Byte).toNat < (0xFF : Byte).toNat := by decide

theorem witness_RestartPendingFreezesTheBlock :
    ∃ s : State, s.run = .restartPending ∧ rstIn s = false ∧ s.blockMoves ∧ s.rx = [0xF0, 0x00, 0x00] :=
  ⟨{ State.reset with run := .restartPending, rx := [0xF0, 0x00, 0x00] }, rfl, rfl, .inl rfl, rfl⟩

theorem witness_OnlyAResetFrameRequestsRestart :
    ∃ t, step (held 0xFF 0x00 [0x00]) = .next t ∧ (held 0xFF 0x00 [0x00]).run = .running ∧
      t.run = .restartPending := ⟨_, rfl, rfl, rfl⟩

theorem witness_NothingRunsBehindReset : busy.run = .running ∧ busy.fcnt = .zero := by decide

theorem witness_RstPutsTheResetState :
    ∀ p ∈ ([.flush, .keep, .any] : List RxPolicy), ∀ a ∈ ([.none, .ready] : List BootAnnounce), ∃ s : State,
      s.sched = .rst 1 :: [.block] ∧ s.params.resetRxPolicy = p ∧ s.params.bootAnnounce = a :=
  fun p _ a _ =>
    ⟨{ State.reset with
        params := { defaultParams with resetRxPolicy := p, bootAnnounce := a }, sched := [.rst 1, .block] },
      rfl, rfl, rfl⟩

theorem witness_RstPutsTheResetState_default :
    ∃ s : State, s.sched = .rst 0 :: [] ∧ s.params = defaultParams ∧ s.fcnt = .two :=
  ⟨{ held 0x77 0x00 [] with sched := [.rst 0] }, rfl, rfl, rfl⟩

/-- Unbounded, a depth of 0 and a depth just reached (1 byte of 1). -/
theorem witness_HostSendQueuesInOrder :
    ∀ d ∈ ([none, some 0, some 1, some 2] : List (Option Nat)), ∃ s : State,
      s.sched = .send 0xFF :: [] ∧ s.params.rxDepth = d ∧ s.rx.length = 1 :=
  fun d _ =>
    ⟨{ State.reset with
        params := { defaultParams with rxDepth := d }, rx := [0x01], sched := [.send 0xFF] }, rfl, rfl, rfl⟩

theorem witness_TransportStaysWithinDepth :
    ∃ s t : State, s.params.rxDepth = some 1 ∧ s.rx.length ≤ 1 ∧ s.rx.length = 1 ∧ step s = .next t :=
  ⟨{ State.reset with
      params := { defaultParams with rxDepth := some 1 }, rx := [0x01], sched := [.send 0xFF] }, _,
    rfl, by decide, rfl, rfl⟩

/-- A state that is not the reset state meets the invariants: the one after `[04 00 FF]`. -/
theorem white_inv : white.Inv where
  restartPending := by decide
  pwmDuty m := .inl (by cases m <;> rfl)
  servoDuty := .inl rfl
  neoRgb := .inr ⟨.white, by decide⟩
  responses := by decide
  txOfEv := by decide
  bytes := by decide
  registers := by decide
  causesNamed := by simp [white]
  restartRecorded := by decide

theorem witness_StepKeepsInvariants :
    ∃ s t : State, s.Inv ∧ step s = .next t ∧ t.sched = [] ∧ s.sched = [.send 0xFF] :=
  ⟨{ white with sched := [.send 0xFF] }, _,
    ⟨white_inv.1, white_inv.2, white_inv.3, white_inv.4, white_inv.5, white_inv.6, white_inv.7, white_inv.8,
      white_inv.9, white_inv.10⟩, rfl, rfl, rfl⟩

theorem witness_RegistersStayInTheirRanges : white.Inv ∧ white.params = defaultParams := ⟨white_inv, rfl⟩

theorem witness_ResponsesAreFirstInFirstOut :
    busy.run = .running ∧ busy.fcnt = .zero ∧
    ∀ f ∈ ([⟨0x04, 0x00, 0x01⟩, ⟨0x04, 0x00, 0x09⟩, ⟨0xFE, 0xFF, 0xFF⟩, ⟨0xF0, 0x00, 0x00⟩] : List Frame),
      f.op ≠ 0xFF := by decide

theorem witness_AlignmentIsPositional :
    ∃ t, runSteps 1 ((held 0x00 0x01 []).offered [0x02]) = .next t ∧ t.run = .running := ⟨_, rfl, rfl⟩

theorem witness_NumericOperandsAreTruncated :
    ∀ m ∈ ([0, 10, 13, 17, 43, 256, 267] : List Nat), m ∉ [11, 12, 21, 22, 31, 32, 41, 42] := by decide

theorem witness_DigitalPinsAreLookedUp :
    ∀ p ∈ ([0, 10, 13, 17, 43, 267] : List Nat),
      ∀ g : Tag, p ≠ 10 * motorIndex g.motor + terminalIndex g.terminal := by
  rintro p hp ⟨m, t⟩
  cases m <;> cases t <;> (revert p; decide)

theorem witness_TextGivesOnlyConventionalFrames :
    assemble ['n', 'e', 'o', ' ', '7'] = .frame ⟨0x04, 0x00, 0x07⟩ ∧
    assemble ['r', 'e', 's', 'e', 't'] = .frame ⟨0xFF, 0x00, 0x00⟩ := by decide

/-- Each cause on its first and its last opcode, target or value outside the accepted ones (program P3). -/
theorem witness_CausesAreNamedInTheTraceOnly :
    HasCause ⟨0x00, 0x00, 0x00⟩ .unknownOpcode ∧ HasCause ⟨0xFE, 0x00, 0x00⟩ .unknownOpcode ∧
    HasCause ⟨0x01, 0x00, 0xFF⟩ .invalidPwmTarget ∧ HasCause ⟨0x01, 0x05, 0xFF⟩ .invalidPwmTarget ∧
    HasCause ⟨0x02, 0x13, 0x01⟩ .invalidDigitalTarget ∧ HasCause ⟨0x02, 0x51, 0x01⟩ .invalidDigitalTarget ∧
    HasCause ⟨0x04, 0x00, 0x04⟩ .unmatchedNeopixelValue ∧
    HasCause ⟨0x04, 0x00, 0xFE⟩ .unmatchedNeopixelValue := by
  refine ⟨?_, ?_, ⟨rfl, ?_⟩, ⟨rfl, ?_⟩, ⟨rfl, ?_⟩, ⟨rfl, ?_⟩, ⟨rfl, ?_⟩, ⟨rfl, ?_⟩⟩ <;> simp [HasCause]

end Sys2Proof.Tests
end

section
/-! PROOFS. The encoding (30_encoding.md): the decoder inverts the encoder on frames, and the first row of the
opcode table that matches a frame word is the row of the opcode that the decoder finds by byte equality. -/

namespace Sys2Proof

/-- Decoding inverts `Instr.frame`; R54 is the reason that ILLEGAL needs well-formedness. -/
theorem decodeFrame_frame {i : Instr} (h : i.wellFormed = true) : decodeFrame i.frame = i := by
  cases i with
  | illegal op tgt val =>
    have hop : opcodeOf? op = none := opcodeOf?_eq_none.mpr (by simpa [Instr.wellFormed] using h)
    simp [decodeFrame, Instr.frame, hop]
  | pwm | digital | servo | neopixel | ping | reset => rfl

/-- The row of one of the six defined opcodes: its byte in the opcode field, and nothing else compared (R51). -/
def Opcode.row (o : Opcode) : OpcodeRow := ⟨some o, o.byte.zeroExtend 24 <<< 16, 0xFF0000, 0⟩

/-- The default row, tried last: it compares no bit (R51). -/
def illegalRow : OpcodeRow := ⟨none, 0x000000, 0x000000, 1⟩

theorem opcodeTable_eq_rows : opcodeTable = Opcode.all.map Opcode.row ++ [illegalRow] := by decide

theorem matchesWord_illegalRow (w : FrameWord) : illegalRow.matchesWord w = true := by
  simp [OpcodeRow.matchesWord, illegalRow]

/-- The opcode field of a frame word determines the byte in it. -/
theorem opcodeField_inj {a b : Byte} :
    a.zeroExtend 24 <<< 16 = b.zeroExtend 24 <<< 16 ↔ a = b := by
  constructor
  · intro h
    bv_omega
  · rintro rfl
    rfl

/-- A defined row matches the frames whose whole opcode byte is its opcode's byte. -/
theorem matchesWord_row (o : Opcode) (f : Frame) : o.row.matchesWord f.word = (o.byte == f.op) := by
  have hmask : f.word &&& o.row.mask = f.op.zeroExtend 24 <<< 16 := f.word_and_opcodeMask
  rw [OpcodeRow.matchesWord, hmask, Bool.eq_iff_iff, beq_iff_eq, beq_iff_eq, Opcode.row, opcodeField_inj, eq_comm]

/-- The table scan finds the row of the opcode that the decoder finds, and the default row where it finds none. -/
theorem find?_opcodeTable (f : Frame) :
    (opcodeTable.find? fun r => r.matchesWord f.word) = some (((opcodeOf? f.op).map Opcode.row).getD illegalRow) := by
  have hrows : ((Opcode.all.map Opcode.row).find? fun r => r.matchesWord f.word) =
      (opcodeOf? f.op).map Opcode.row := by
    simp only [List.find?_map, Function.comp_def, matchesWord_row, opcodeOf?]
  have hdefault : ([illegalRow].find? fun r => r.matchesWord f.word) = some illegalRow :=
    List.find?_cons_of_pos (matchesWord_illegalRow f.word)
  rw [opcodeTable_eq_rows, List.find?_append, hrows, hdefault]
  cases opcodeOf? f.op with
  | none => rfl
  | some o => rfl

/-- The first matching row of the table is the row of the decoded instruction. -/
theorem opcode_find?_opcodeTable (f : Frame) :
    (opcodeTable.find? fun r => r.matchesWord f.word).map (·.opcode) = some (decodeFrame f).opcode? := by
  rw [find?_opcodeTable, opcode?_decodeFrame]
  cases opcodeOf? f.op with
  | none => rfl
  | some o => rfl

end Sys2Proof

namespace Sys2Proof.Machine

theorem responseOf_illegal (op tgt val : Byte) : responseOf (.illegal op tgt val) = .error := rfl

/-- Settles O3: each opcode clause is `decodeFrame_frame` for its instruction, and the table clause is
`opcode_find?_opcodeTable`. -/
theorem opcodeByteSelectsInstruction : Obligations.OpcodeByteSelectsInstruction := by
  intro op tgt val
  refine ⟨?pwm, ?digital, ?servo, ?neopixel, ?ping, ?reset, ?illegal, opcode_find?_opcodeTable ⟨op, tgt, val⟩⟩
  case pwm => rintro rfl; exact decodeFrame_frame (i := .pwm tgt val) rfl
  case digital => rintro rfl; exact decodeFrame_frame (i := .digital tgt val) rfl
  case servo => rintro rfl; exact decodeFrame_frame (i := .servo tgt val) rfl
  case neopixel => rintro rfl; exact decodeFrame_frame (i := .neopixel tgt val) rfl
  case ping => rintro rfl; exact decodeFrame_frame (i := .ping tgt val) rfl
  case reset => rintro rfl; exact decodeFrame_frame (i := .reset tgt val) rfl
  case illegal =>
    intro hop
    have hwf : (Instr.illegal op tgt val).wellFormed = true := by
      simpa [Instr.wellFormed, definedOpcodes] using hop
    have hdec : decodeFrame ⟨op, tgt, val⟩ = .illegal op tgt val := decodeFrame_frame hwf
    refine ⟨hdec, ?_⟩
    rw [hdec, responseOf_illegal]
    rfl

end Sys2Proof.Machine
end

section
/-! PROOFS. One response per frame (40_dispatch.md R76): what an instruction appends to the traces, and which steps
append a response at all. -/

namespace Sys2Proof.Machine

/-- `t` is `s` after one response `r`: TX grows by its byte, and EV by `writes`, at most one register write, then
the response event, then `after`, which holds no response and no write. -/
structure AnsweredOnce (s t : State) (writes : List Event) (r : Response) (cause : Option ErrorCause)
    (after : List Event) : Prop where
  tx          : t.tx = s.tx ++ [responseByte r]
  ev          : t.ev = s.ev ++ writes ++ [.resp (responseByte r) cause] ++ after
  atMostOne   : writes.length ≤ 1
  onlyWrites  : ∀ e ∈ writes, isWrite e = true
  afterSilent : ∀ e ∈ after, respByte? e = none ∧ isWrite e = false

/-- A frame that writes a register: `u` is the state between the write and the response. -/
theorem answeredOnce_respond {s u : State} {e : Event} (r : Response) (htx : u.tx = s.tx)
    (hev : u.ev = s.ev ++ [e]) (he : isWrite e = true) : AnsweredOnce s (respond r u) [e] r none [] where
  tx := by rw [respond_tx, htx]
  ev := by rw [respond_ev, hev, List.append_nil]
  atMostOne := le_rfl
  onlyWrites := List.forall_mem_singleton.mpr he
  afterSilent := List.forall_mem_nil _

/-- A frame that writes no register and requests no restart: PING, and every error. -/
theorem answeredOnce_emitResponse (s : State) (r : Response) (c : Option ErrorCause) :
    AnsweredOnce s (emitResponse r c (countFrame s)) [] r c [] where
  tx := rfl
  ev := by simp
  atMostOne := Nat.zero_le 1
  onlyWrites := List.forall_mem_nil _
  afterSilent := List.forall_mem_nil _

/-- A RESET frame: the restart is requested after its response (45_system.md R106). -/
theorem answeredOnce_restartRequest (s : State) :
    AnsweredOnce s (restartRequest (respond .resetOk (countFrame s))) [] .resetOk none [.restartReq] where
  tx := rfl
  ev := by simp
  atMostOne := Nat.zero_le 1
  onlyWrites := List.forall_mem_nil _
  afterSilent := List.forall_mem_singleton.mpr ⟨rfl, rfl⟩

theorem ExecEffect.answeredOnce {s t : State} {i : Instr} (h : ExecEffect s i t) :
    ∃ writes r cause after, AnsweredOnce s t writes r cause after := by
  cases h with
  | pwm | digital | servo | neopixel => exact ⟨_, _, _, _, answeredOnce_respond _ rfl rfl rfl⟩
  | ping | error => exact ⟨_, _, _, _, answeredOnce_emitResponse s _ _⟩
  | reset => exact ⟨_, _, _, _, answeredOnce_restartRequest s⟩

theorem exec_answeredOnce (i : Instr) (s : State) :
    ∃ t writes r cause after, exec i s = .next t ∧ AnsweredOnce s t writes r cause after := by
  obtain ⟨t, ht, he⟩ := exec_effect i s
  obtain ⟨writes, r, cause, after, h⟩ := he.answeredOnce
  exact ⟨t, writes, r, cause, after, ht, h⟩

/-- After `rst`, TX holds the READY of BOOT_ANNOUNCE or nothing (70_reset_and_hazards.md R143). -/
theorem applyRst_tx (lost : Nat) (s : State) :
    (applyRst lost s).tx = if s.params.bootAnnounce = .ready then [0xAA] else [] := by
  rw [applyRst_eq]
  cases s.params.bootAnnounce <;> rfl

/-- What a step does to TX: a reset starts it again, a step that completes a frame appends one response, and every
other step leaves it. -/
theorem StepEffect.tx_cases {s t : State} (h : StepEffect s t) :
    (rstIn s = true ∧ t.tx = if s.params.bootAnnounce = .ready then [0xAA] else []) ∨
    (rstIn s = false ∧ t.nframes = s.nframes ∧ t.tx = s.tx) ∨
    (rstIn s = false ∧ t.nframes = s.nframes + 1 ∧ ∃ r : Response, t.tx = s.tx ++ [responseByte r]) := by
  cases h with
  | idle hb | opcode hb | target hb => exact .inr (.inl ⟨rstIn_blockMoves hb, rfl, rfl⟩)
  | frame hb _ _ _ he =>
    have heff := exec_cases he
    obtain ⟨_, r, _, _, hans⟩ := heff.answeredOnce
    exact .inr (.inr ⟨rstIn_blockMoves hb, heff.kept.nframes, r, hans.tx⟩)
  | @send b ts hs =>
    have hsame := hostSend_sameBlock b { s with sched := ts }
    exact .inr (.inl ⟨rstIn_send hs, hsame.nframes, hsame.tx⟩)
  | rst hs => exact .inl ⟨rstIn_rst hs, applyRst_tx _ _⟩

/-- Settles O24: the clause on instructions is `exec_answeredOnce`, and the clause on steps reads off the cases of
`StepEffect.tx_cases`. -/
theorem oneResponsePerFrame : Obligations.OneResponsePerFrame := by
  refine ⟨fun i s => ?exec, fun s => ?step⟩
  case exec =>
    obtain ⟨t, writes, r, cause, after, ht, h⟩ := exec_answeredOnce i s
    exact ⟨t, writes, after, cause, r, ht, h.tx, h.ev, h.atMostOne, h.onlyWrites, h.afterSilent⟩
  case step =>
    obtain ⟨t, ht, he⟩ := step_effect s
    refine ⟨t, ht, ?_⟩
    rcases he.tx_cases with ⟨hr, htx⟩ | ⟨hr, hkept⟩ | ⟨hr, hframe⟩
    · exact ⟨fun _ => htx, by simp [hr]⟩
    · exact ⟨by simp [hr], fun _ => .inl hkept⟩
    · exact ⟨by simp [hr], fun _ => .inr hframe⟩

end Sys2Proof.Machine
end

section
/-! PROOFS. The PWM instruction (41_pwm.md R85, R86): an error frame writes nothing, `pwm_scale` fits the 10-bit
register, and a write to one channel leaves every other register alone. -/

namespace Sys2Proof.Machine

/-- Taking an error after counting the frame emits ERROR and does nothing else (60_exceptions.md R122). -/
theorem answeredWithError_protocolError {i : Instr} {c : ErrorCause} (s : State) (h : errorCause? i = some c) :
    AnsweredWithError s (protocolError c (countFrame s)) where
  toKeptByFrame := (ExecEffect.error h).kept
  out := rfl
  run := rfl
  tx := rfl
  ev := ⟨some c, rfl⟩

/-- No rounding passes a whole number that the quotient does not pass. -/
theorem roundedDiv_le_of_le_mul (r : Rounding) {num den b : Nat} (hden : 0 < den) (h : num ≤ den * b) :
    roundedDiv r num den ≤ b := by
  have hquot : num / den ≤ b := Nat.div_le_of_le_mul h
  cases r with
  | nearestUp =>
    have hlt : 2 * num + den < 2 * den * (b + 1) := by
      have : 2 * den * (b + 1) = 2 * (den * b) + 2 * den := by ring
      omega
    exact Nat.le_of_lt_succ (Nat.div_lt_of_lt_mul hlt)
  | nearestEven =>
    -- Rounding up happens with a remainder, and then the truncated quotient is below the bound.
    have hbelow : 0 < num % den → num / den < b := by
      intro hrem
      have hsplit : den * (num / den) + num % den = num := Nat.div_add_mod num den
      exact Nat.lt_of_mul_lt_mul_left (a := den) (by omega)
    simp only [roundedDiv]
    split
    · exact hquot
    · split <;> omega
  | floor => exact hquot

/-- No rounding of `v * 1023 / 255` overflows `PWM_DUTY`. -/
theorem pwmScale_toNat (r : Rounding) (val : Byte) :
    (pwmScale r val).toNat = roundedDiv r (1023 * val.toNat) 255 := by
  have hval : val.toNat < 256 := val.isLt
  have hle : roundedDiv r (1023 * val.toNat) 255 ≤ 1023 :=
    roundedDiv_le_of_le_mul r (by decide) (by omega)
  rw [pwmScale, BitVec.toNat_ofNat, Nat.mod_eq_of_lt (by omega)]

/-- R86's formula, under the default rounding. -/
theorem pwmScale_nearestUp_toNat (val : Byte) :
    (pwmScale .nearestUp val).toNat = (2046 * val.toNat + 255) / 510 := by
  have hnum : 2 * (1023 * val.toNat) = 2046 * val.toNat := by omega
  rw [pwmScale_toNat, roundedDiv, hnum]

theorem onlyPwmDiffers_putPwm (m : Motor) (r : OutRegs) (d : BitVec 10) : OnlyPwmDiffers m r (putPwm r m d) where
  pwm _ h := readPwm_putPwm_other r d h
  dig := readDig_putPwm r m d
  servo := rfl
  neo := rfl

/-- Settles O14: the target decides between `execPwm_valid`, whose one write is described by
`onlyPwmDiffers_putPwm` and `pwmScale_nearestUp_toNat`, and `execPwm_invalid`, which takes an error. -/
theorem pwmFrameEffect : Obligations.PwmFrameEffect := by
  intro s tgt val
  refine ⟨fun m htgt => ?channel, fun htgt => ?error⟩
  case channel =>
    have hm : pwmTarget? tgt = some m := pwmTarget?_eq_some.mpr htgt
    have hread : readPwm (putPwm s.out m (pwmScale s.params.scaleRounding val)) m =
        pwmScale s.params.scaleRounding val := readPwm_putPwm_same _ _ _
    refine ⟨_, execPwm_valid s val hm, (ExecEffect.pwm hm).kept, rfl, hread, ?_, onlyPwmDiffers_putPwm m _ _, ?_, rfl⟩
    · intro hr
      rw [respond_out, writePwm_out, countFrame_out, hread, hr, pwmScale_nearestUp_toNat]
    · simp [responseByte]
  case error =>
    have hnone : pwmTarget? tgt = none := pwmTarget?_eq_none.mpr htgt
    have hcause : errorCause? (.pwm tgt val) = some .invalidPwmTarget := by simp [errorCause?, hnone]
    exact ⟨_, execPwm_invalid s val hnone, answeredWithError_protocolError s hcause⟩

end Sys2Proof.Machine
end

section
/-! PROOFS. The DIGITAL instruction (42_digital.md R90, R91): the two nibbles of the target name a tag exactly when
the target is that tag's byte, and a write to one pin leaves every other register alone. -/

namespace Sys2Proof.Machine

theorem tagByte_toNat (g : Tag) : (tagByte g).toNat = 16 * motorIndex g.motor + terminalIndex g.terminal := by
  obtain ⟨m, e⟩ := g
  cases m <;> cases e <;> rfl

/-- R15: a target whose high nibble is the motor index and whose low nibble is the terminal is the tag's byte. -/
theorem eq_tagByte_of_nibbles {tgt : Byte} {g : Tag} (hm : tgt.toNat / 16 = motorIndex g.motor)
    (he : tgt.toNat % 16 = terminalIndex g.terminal) : tgt = tagByte g := by
  apply BitVec.eq_of_toNat_eq
  rw [tagByte_toNat, ← hm, ← he, Nat.div_add_mod]

theorem mem_allTags (g : Tag) : g ∈ allTags := by
  obtain ⟨m, e⟩ := g
  cases m <;> cases e <;> decide

/-- The eight valid targets as R91 lists them. -/
theorem map_tagByte_allTags : allTags.map tagByte = [0x11, 0x12, 0x21, 0x22, 0x31, 0x32, 0x41, 0x42] := by decide

/-- The targets of R91's list are the bytes of the tags. -/
theorem mem_validTargets_iff {tgt : Byte} :
    tgt ∈ ([0x11, 0x12, 0x21, 0x22, 0x31, 0x32, 0x41, 0x42] : List Byte) ↔ ∃ g, tgt = tagByte g := by
  simp only [← map_tagByte_allTags, List.mem_map, mem_allTags, true_and, eq_comm]

theorem onlyDigDiffers_putDig (g : Tag) (r : OutRegs) (b : Bool) : OnlyDigDiffers g r (putDig r g b) where
  dig _ h := readDig_putDig_other r b h
  pwm := readPwm_putDig r g b
  servo := rfl
  neo := rfl

/-- Settles O15: the target decides between `execDigital_valid`, whose one write is described by
`onlyDigDiffers_putDig`, and `execDigital_invalid`, which takes an error. -/
theorem digitalFrameEffect : Obligations.DigitalFrameEffect := by
  intro s tgt val
  refine ⟨fun g hm he => ?tag, fun htgt => ?error⟩
  case tag =>
    have hbyte : tgt = tagByte g := eq_tagByte_of_nibbles hm he
    have hg : digTarget? tgt = some g := digTarget?_eq_some.mpr hbyte
    have hread : readDig (putDig s.out g (digLevel val)) g = digLevel val := readDig_putDig_same _ _ _
    refine ⟨mem_validTargets_iff.mpr ⟨g, hbyte⟩, _, execDigital_valid s val hg, (ExecEffect.digital hg).kept, rfl,
      ?_, onlyDigDiffers_putDig g _ _, ?_, rfl⟩
    · rw [respond_out, writeDig_out, countFrame_out, hread, digLevel_eq_true]
    · simp [responseByte]
  case error =>
    have hnone : digTarget? tgt = none :=
      digTarget?_eq_none.mpr fun g hg => htgt (mem_validTargets_iff.mpr ⟨g, hg⟩)
    have hcause : errorCause? (.digital tgt val) = some .invalidDigitalTarget := by simp [errorCause?, hnone]
    exact ⟨_, execDigital_invalid s val hnone, answeredWithError_protocolError s hcause⟩

end Sys2Proof.Machine
end

section
/-! PROOFS. The operator's text (30_encoding.md section 6): how a line of words separated by spaces is cut into tokens,
and what a numeric operand written in decimal is read as. -/

namespace Sys2Proof.Machine

/-- A token: characters, at least one, and no white space among them. -/
structure IsToken (w : List Char) : Prop where
  nonempty : w ≠ []
  noSpace  : ∀ c ∈ w, isSpace c = false

theorem tokensFrom_append {w : List Char} (hw : ∀ c ∈ w, isSpace c = false) (acc cs : List Char) :
    tokensFrom acc (w ++ cs) = tokensFrom (w.reverse ++ acc) cs := by
  induction w generalizing acc with
  | nil => rfl
  | cons c w ih =>
    obtain ⟨hc, hrest⟩ := List.forall_mem_cons.mp hw
    simp [tokensFrom, hc, ih hrest]

/-- The whole of the line is one token. -/
theorem tokens_of_isToken {w : List Char} (hw : IsToken w) : tokens w = [w] := by
  have hread : tokens w = tokensFrom w.reverse [] := by
    simpa [tokens] using tokensFrom_append hw.noSpace [] []
  simp [hread, tokensFrom, hw.nonempty]

/-- A space ends the first token. -/
theorem tokens_append_space {w : List Char} (hw : IsToken w) (cs : List Char) :
    tokens (w ++ ' ' :: cs) = w :: tokens cs := by
  have hspace : isSpace ' ' = true := by decide
  rw [tokens, tokensFrom_append hw.noSpace]
  simp [tokensFrom, hspace, hw.nonempty, tokens]

theorem isSpace_eq_false_of_isDigit {c : Char} (h : c.isDigit = true) : isSpace c = false := by
  have hne : ∀ d : Char, d.isDigit = false → c ≠ d := by
    rintro d hd rfl
    simp [h] at hd
  simp [isSpace, hne]

theorem isDigit_of_mem_decimalDigits {n : Nat} {c : Char} (h : c ∈ Nat.toDigits 10 n) : c.isDigit = true :=
  Nat.isDigit_of_mem_toDigits (by decide) le_rfl h

theorem isToken_toDigits (n : Nat) : IsToken (Nat.toDigits 10 n) where
  nonempty := Nat.toDigits_ne_nil
  noSpace _ hc := isSpace_eq_false_of_isDigit (isDigit_of_mem_decimalDigits hc)

theorem digit?_of_isDigit {c : Char} (h : c.isDigit = true) : digit? c = some (c.toNat - '0'.toNat) := by
  have hrange : 48 ≤ c.toNat ∧ c.toNat ≤ 57 := by
    simpa [Char.isDigit, UInt32.le_iff_toNat_le] using h
  exact if_pos hrange

/-- On digits, the assembler's reader is the library's. -/
theorem decimalFrom_eq_ofDigitChars {cs : List Char} (hcs : ∀ c ∈ cs, c.isDigit = true) (acc : Nat) :
    decimalFrom acc cs = some (Nat.ofDigitChars 10 cs acc) := by
  induction cs generalizing acc with
  | nil => rfl
  | cons c cs ih =>
    obtain ⟨hc, hrest⟩ := List.forall_mem_cons.mp hcs
    rw [Nat.ofDigitChars_cons, ← ih hrest]
    simp [decimalFrom, digit?_of_isDigit hc]

theorem decimal?_of_ne_nil {tok : List Char} (h : tok ≠ []) : decimal? tok = decimalFrom 0 tok := by
  cases tok with
  | nil => exact absurd rfl h
  | cons c cs => rfl

/-- Every number is read back from its decimal text, however large (R61). -/
theorem decimal?_toDigits (n : Nat) : decimal? (Nat.toDigits 10 n) = some n := by
  rw [decimal?_of_ne_nil Nat.toDigits_ne_nil,
    decimalFrom_eq_ofDigitChars fun _ hc => isDigit_of_mem_decimalDigits hc, Nat.ofDigitChars_ten_toDigits]

/-- The text `ff` is no decimal text, so `neo` reads every number as itself. -/
theorem neoOperand?_toDigits (n : Nat) : neoOperand? (Nat.toDigits 10 n) = some n := by
  have hff : Nat.toDigits 10 n ≠ ['f', 'f'] := by
    intro h
    have hdigit : 'f'.isDigit = true := isDigit_of_mem_decimalDigits (n := n) (by simp [h])
    exact absurd hdigit (by decide)
  rw [neoOperand?, if_neg hff, decimal?_toDigits]

/-- `neo` with a number sends the number's low byte, with no check of the colour (R59, R60). -/
theorem assemble_neo_toDigits (n : Nat) :
    assemble (['n', 'e', 'o', ' '] ++ Nat.toDigits 10 n) = .frame ⟨0x04, 0x00, truncatedByte n⟩ := by
  have hneo : IsToken ['n', 'e', 'o'] := ⟨by decide, by simp [isSpace]⟩
  have hline : ['n', 'e', 'o', ' '] ++ Nat.toDigits 10 n = ['n', 'e', 'o'] ++ ' ' :: Nat.toDigits 10 n := rfl
  rw [hline, assemble, tokens_append_space hneo, tokens_of_isToken (isToken_toDigits n)]
  simp [assembleTokens, neoOperand?_toDigits, frameOrUnrecognized, Opcode.byte]

end Sys2Proof.Machine
end

section
/-! PROOFS. An unmatched colour code (44_neopixel.md R102): the encoder lets it through and the block rejects it. -/

namespace Sys2Proof.Machine

/-- R100: no byte but the five codes is matched. -/
theorem colourOf?_eq_none {val : Byte} :
    colourOf? val = none ↔ val ∉ ([0x00, 0x01, 0x02, 0x03, 0xFF] : List Byte) := by
  simp [colourOf?, ite_eq_iff]

theorem truncatedByte_toNat (val : Byte) : truncatedByte val.toNat = val := by
  rw [truncatedByte, BitVec.ofNat_toNat, BitVec.setWidth_eq]

/-- Settles O18: the encoder's clauses are one line of text and `assemble_neo_toDigits`, whose truncation keeps every
byte; the block's clause is `execNeopixel_invalid`, which takes an error. -/
theorem unmatchedColourIsRejected : Obligations.UnmatchedColourIsRejected := by
  refine ⟨by decide, fun val => ?decimal, fun s tgt val hval => ?block⟩
  case decimal => rw [assemble_neo_toDigits, truncatedByte_toNat]
  case block =>
    have hnone : colourOf? val = none := colourOf?_eq_none.mpr hval
    have hcause : errorCause? (.neopixel tgt val) = some .unmatchedNeopixelValue := by simp [errorCause?, hnone]
    exact ⟨_, execNeopixel_invalid s tgt hnone, answeredWithError_protocolError s hcause⟩

end Sys2Proof.Machine
end

section
/-! PROOFS. PING and ILLEGAL (45_system.md R105, R107): which frames are ILLEGAL, and that a frame with a cause of
error, once its third byte is accepted, is consumed whole and answered with ERROR. -/

namespace Sys2Proof.Machine

/-- R107: every opcode byte outside the opcode map stands for ILLEGAL. -/
theorem decodeFrame_undefinedOpcode {op : Byte} (tgt val : Byte)
    (hop : op ∉ ([0x01, 0x02, 0x03, 0x04, 0xF0, 0xFF] : List Byte)) :
    decodeFrame ⟨op, tgt, val⟩ = .illegal op tgt val := by
  have hwf : (Instr.illegal op tgt val).wellFormed = true := by
    simpa [Instr.wellFormed, definedOpcodes] using hop
  exact decodeFrame_frame hwf

/-- An instruction with a cause of error takes that error and does nothing else: each other effect of `exec` belongs
to an instruction that passed its operand check. -/
theorem exec_of_errorCause {i : Instr} {c : ErrorCause} (s : State) (h : errorCause? i = some c) :
    exec i s = .next (protocolError c (countFrame s)) := by
  obtain ⟨t, ht, he⟩ := exec_effect i s
  cases he with
  | error hc =>
    obtain rfl := Option.some.inj (hc.symm.trans h)
    exact ht
  | pwm hv | digital hv | neopixel hv => simp [errorCause?, hv] at h
  | servo | ping | reset => cases h

theorem exec_answeredWithError {i : Instr} {c : ErrorCause} (s : State) (h : errorCause? i = some c) :
    ∃ t, exec i s = .next t ∧ AnsweredWithError s t :=
  ⟨_, exec_of_errorCause s h, answeredWithError_protocolError s h⟩

/-- The step that completes a frame with a cause of error answers ERROR from the state in which the frame's three
bytes are consumed. -/
theorem step_answeredWithError {s : State} {b : Byte} {rest : List Byte} {c : ErrorCause} (hb : s.blockMoves)
    (hr : s.run = .running) (hc : s.fcnt = .two) (hx : s.rx = b :: rest)
    (h : errorCause? (decodeFrame ⟨s.fOp, s.fTgt, b⟩) = some c) :
    ∃ t, step s = .next t ∧ AnsweredWithError
      { s with fcnt := .zero, nbytes := s.nbytes + 1, rx := rest, sched := s.sched.tail } t := by
  rw [step_value hb hr hx hc]
  exact exec_answeredWithError _ h

/-- Settles O21: `decodeFrame_undefinedOpcode` gives the instruction, whose cause of error gives the clause on `exec`
by `exec_answeredWithError` and the clause on the step by `step_answeredWithError`. -/
theorem illegalFrameEffect : Obligations.IllegalFrameEffect := by
  intro s op tgt val hop
  have hdec : decodeFrame ⟨op, tgt, val⟩ = .illegal op tgt val := decodeFrame_undefinedOpcode tgt val hop
  refine ⟨hdec, exec_answeredWithError s rfl, ?step⟩
  rintro rest hb hr hc rfl rfl hx
  have hcause : errorCause? (decodeFrame ⟨s.fOp, s.fTgt, val⟩) = some .unknownOpcode := congrArg errorCause? hdec
  obtain ⟨t, ht, he⟩ := step_answeredWithError hb hr hc hx hcause
  exact ⟨t, ht, he.fcnt, he.rx, he.out, he.run.trans hr, he.tx, he.ev⟩

/-- Settles O19: `execPing_next` counts the frame and responds READY, and no more. -/
theorem pingFrameEffect : Obligations.PingFrameEffect := by
  intro s tgt val
  exact ⟨_, execPing_next s tgt val, (ExecEffect.ping (tgt := tgt) (val := val)).kept, rfl, rfl, rfl, rfl⟩

end Sys2Proof.Machine
end

section
/-! PROOFS. ProtocolError (60_exceptions.md R120, R122): the handlers' operand checks are the table of causes, 0xEE is
the response to the frames of that table and to no others, and taking an error raises no strobe. -/

namespace Sys2Proof.Machine

/-! The operand check of each handler, as a row of R120's table. -/

theorem errorCause?_pwm {tgt val : Byte} {c : ErrorCause} :
    errorCause? (.pwm tgt val) = some c ↔
      c = .invalidPwmTarget ∧ tgt ∉ ([0x01, 0x02, 0x03, 0x04] : List Byte) := by
  have htgt : pwmTarget? tgt = none ↔ tgt ∉ ([0x01, 0x02, 0x03, 0x04] : List Byte) := by
    rw [pwmTarget?_eq_none]
    simp only [List.mem_cons, List.not_mem_nil, or_false]
    bv_omega
  rw [← htgt]
  cases h : pwmTarget? tgt <;> simp [errorCause?, h, eq_comm]

theorem errorCause?_digital {tgt val : Byte} {c : ErrorCause} :
    errorCause? (.digital tgt val) = some c ↔
      c = .invalidDigitalTarget ∧
        tgt ∉ ([0x11, 0x12, 0x21, 0x22, 0x31, 0x32, 0x41, 0x42] : List Byte) := by
  rw [mem_validTargets_iff, not_exists, ← digTarget?_eq_none]
  cases h : digTarget? tgt <;> simp [errorCause?, h, eq_comm]

theorem errorCause?_neopixel {tgt val : Byte} {c : ErrorCause} :
    errorCause? (.neopixel tgt val) = some c ↔
      c = .unmatchedNeopixelValue ∧ val ∉ ([0x00, 0x01, 0x02, 0x03, 0xFF] : List Byte) := by
  rw [← colourOf?_eq_none]
  cases h : colourOf? val <;> simp [errorCause?, h, eq_comm]

/-- R54: the decoder answers ILLEGAL for undefined opcodes only. -/
theorem wellFormed_decodeFrame (f : Frame) : (decodeFrame f).wellFormed = true := by
  unfold decodeFrame
  cases h : opcodeOf? f.op with
  | none => simp only [Instr.wellFormed, opcodeOf?_eq_none.mp h, Bool.not_false]
  | some o => cases o <;> rfl

/-- The error an instruction raises is one that R120's table gives its frame. -/
theorem hasCause_frame {i : Instr} {c : ErrorCause} (hwf : i.wellFormed = true) (h : errorCause? i = some c) :
    HasCause i.frame c := by
  cases i with
  | pwm tgt val =>
    obtain ⟨rfl, htgt⟩ := errorCause?_pwm.mp h
    exact ⟨rfl, htgt⟩
  | digital tgt val =>
    obtain ⟨rfl, htgt⟩ := errorCause?_digital.mp h
    exact ⟨rfl, htgt⟩
  | neopixel tgt val =>
    obtain ⟨rfl, hval⟩ := errorCause?_neopixel.mp h
    exact ⟨rfl, hval⟩
  | illegal op tgt val =>
    obtain rfl : .unknownOpcode = c := Option.some.inj h
    simpa [HasCause, Instr.frame, Instr.wellFormed, definedOpcodes] using hwf
  | servo | ping | reset => cases h

/-- Each row of R120's table fixes the opcode, so the frame's handler is the one that checks the row's operand. -/
theorem errorCause?_of_hasCause {f : Frame} {c : ErrorCause} (h : HasCause f c) :
    errorCause? (decodeFrame f) = some c := by
  obtain ⟨op, tgt, val⟩ := f
  cases c with
  | unknownOpcode => rw [decodeFrame_undefinedOpcode tgt val h]; rfl
  | invalidPwmTarget =>
    obtain ⟨rfl : op = _, htgt⟩ := h
    exact errorCause?_pwm.mpr ⟨rfl, htgt⟩
  | invalidDigitalTarget =>
    obtain ⟨rfl : op = _, htgt⟩ := h
    exact errorCause?_digital.mpr ⟨rfl, htgt⟩
  | unmatchedNeopixelValue =>
    obtain ⟨rfl : op = _, hval⟩ := h
    exact errorCause?_neopixel.mpr ⟨rfl, hval⟩

/-- A decoded frame raises exactly the errors of R120's table. -/
theorem errorCause?_decodeFrame {f : Frame} {c : ErrorCause} :
    errorCause? (decodeFrame f) = some c ↔ HasCause f c := by
  refine ⟨fun h => ?_, errorCause?_of_hasCause⟩
  have hframe : HasCause (decodeFrame f).frame c := hasCause_frame (wellFormed_decodeFrame f) h
  rwa [frame_decodeFrame] at hframe

theorem isErrorFrame_iff {f : Frame} : IsErrorFrame f ↔ ∃ c, errorCause? (decodeFrame f) = some c :=
  exists_congr fun _ => errorCause?_decodeFrame.symm

/-- Every frame that raises no error has a response of its own, and none of these is 0xEE (30_encoding.md R57). -/
theorem ExecEffect.tx_error_iff {s t : State} {i : Instr} (h : ExecEffect s i t) :
    t.tx = s.tx ++ [0xEE] ↔ ∃ c, errorCause? i = some c := by
  cases h with
  | error hc => exact ⟨fun _ => ⟨_, hc⟩, fun _ => rfl⟩
  | pwm hv | digital hv | neopixel hv => simp [errorCause?, hv, responseByte]
  | servo | ping | reset => simp [errorCause?, responseByte]

/-- Settles O22: by `isErrorFrame_iff` the four conditions are the causes that `exec` tests; under a cause its state is
`exec_of_errorCause`'s, and `ExecEffect.tx_error_iff` reads the cause back from the response. -/
theorem errorExactlyOnTheFourCauses : Obligations.ErrorExactlyOnTheFourCauses := by
  intro s f
  obtain ⟨t, ht, he⟩ := exec_effect (decodeFrame f) s
  rw [isErrorFrame_iff]
  refine ⟨t, ht, ?_, he.tx_error_iff⟩
  rintro ⟨c, hc⟩
  obtain rfl : protocolError c (countFrame s) = t := by simpa [exec_of_errorCause s hc] using ht
  exact answeredWithError_protocolError s hc

/-! The strobes of a step that takes an error. -/

/-- Outside reset, the events of a step are what it appends to EV. -/
theorem stepEvents_of_ev_append {s t : State} {es : List Event} (hr : rstIn s = false) (ht : step s = .next t)
    (hev : t.ev = s.ev ++ es) : stepEvents s = es := by
  simp [stepEvents, ht, hr, hev]

/-- A step whose one event is a response raises no write strobe (10_state.md R19). -/
theorem noStrobe_of_stepEvents_resp {s : State} {b : Byte} {cause : Option ErrorCause}
    (h : stepEvents s = [.resp b cause]) :
    (∀ m, pwmWe s m = false) ∧ (∀ g, digWe s g = false) ∧ servoWe s = false ∧ neoShow s = false := by
  simp [pwmWe, digWe, servoWe, neoShow, h]

/-- Settles O23: `step_answeredWithError` gives the state, whose one new event is the response, so
`noStrobe_of_stepEvents_resp` gives the strobes. -/
theorem errorFrameIsConsumed : Obligations.ErrorFrameIsConsumed := by
  intro s b rest hb hr hc hx hf
  obtain ⟨c, hcause⟩ := isErrorFrame_iff.mp hf
  obtain ⟨t, ht, he⟩ := step_answeredWithError hb hr hc hx hcause
  obtain ⟨cause, hev⟩ := he.ev
  have hevents : stepEvents s = [.resp 0xEE cause] := stepEvents_of_ev_append (rstIn_blockMoves hb) ht hev
  exact ⟨t, cause, ht, he.tx, hev, he.out, he.run.trans hr, he.fcnt, he.rx, he.nbytes, he.nframes, he.params,
    noStrobe_of_stepEvents_resp hevents⟩

end Sys2Proof.Machine
end

section
/-! PROOFS. The decoder and the encoder (30_encoding.md sections 1 and 2): what the decoder answers for a byte string of
each length, and that it inverts the encoder in both directions. -/

namespace Sys2Proof

/-- The decoder answers an instruction exactly where a whole frame stands first, and then that frame's. -/
theorem decode_eq_instr_iff {bs rest : List Byte} {i : Instr} :
    decode bs = .instr i rest ↔ ∃ f : Frame, bs = f.bytes ++ rest ∧ i = decodeFrame f := by
  constructor
  · intro h
    match bs, h with
    | op :: tgt :: val :: rest', h =>
      obtain ⟨rfl, rfl⟩ := DecodeResult.instr.inj h
      exact ⟨⟨op, tgt, val⟩, rfl, rfl⟩
  · rintro ⟨f, rfl, rfl⟩
    exact decode_bytes_append f rest

theorem decode_of_length_lt_three {bs : List Byte} (h : bs.length < 3) :
    decode bs = .rejected (.partialFrame bs.length) := by
  match bs, h with
  | [], _ | [_], _ | [_, _], _ => rfl

/-- Where there are three bytes, they are those of a frame. -/
theorem exists_frame_of_three_le_length {bs : List Byte} (h : 3 ≤ bs.length) :
    ∃ f : Frame, bs.take 3 = f.bytes := by
  match bs, h with
  | op :: tgt :: val :: _, _ => exact ⟨⟨op, tgt, val⟩, rfl⟩

@[simp] theorem encode_decodeFrame (f : Frame) : encode (decodeFrame f) = f.bytes := by
  rw [encode, frame_decodeFrame]

end Sys2Proof

namespace Sys2Proof.Machine

/-- Settles O1: the decoder reads the frame of the encoding, and `decodeFrame_frame` gives the instruction back. -/
theorem decodeOfEncode : Obligations.DecodeOfEncode := by
  intro i rest hwf
  rw [encode, decode_bytes_append, decodeFrame_frame hwf]

/-- Settles O2: the bytes are those of a frame followed by the rest, and the instruction is the frame's. -/
theorem encodeOfDecode : Obligations.EncodeOfDecode := by
  intro bs rest i h
  obtain ⟨f, rfl, rfl⟩ := decode_eq_instr_iff.mp h
  exact ⟨wellFormed_decodeFrame f, by rw [encode_decodeFrame]⟩

/-- Settles O4: the decoder is evaluated on each word. -/
theorem specWordsDecode : Obligations.SpecWordsDecode := by
  unfold Obligations.SpecWordsDecode
  decide

/-- Settles O5: by the number of bytes, `decode_of_length_lt_three` or the frame of the first three. -/
theorem decoderTakesThreeBytes : Obligations.DecoderTakesThreeBytes := by
  intro bs
  refine ⟨decode_of_length_lt_three, fun h => ?_⟩
  obtain ⟨f, hf⟩ := exists_frame_of_three_le_length h
  refine ⟨decodeFrame f, decode_eq_instr_iff.mpr ⟨f, ?_, rfl⟩, by rw [encode_decodeFrame, hf]⟩
  rw [← hf, List.take_append_drop]

end Sys2Proof.Machine
end

section
/-! PROOFS. What a frame does, as one equation (10_state.md section 8, 40_dispatch.md R76, R77): the write, the response
and the events that the instruction and the parameters fix, and the state `exec` answers in terms of them. -/

namespace Sys2Proof.Machine

/-- The register write of an instruction, if it makes one, as its event. -/
def writeOf? (p : Params) : Instr → Option Event
  | .pwm tgt val => (pwmTarget? tgt).map fun m => .writePwm m (pwmScale p.scaleRounding val)
  | .digital tgt val => (digTarget? tgt).map fun g => .writeDig g (digLevel val)
  | .servo _ val => some (.writeServo (servoScale p.scaleRounding val))
  | .neopixel _ val => (colourOf? val).map fun c => .writeNeo (colourRgb p.neoLevel c)
  | .ping _ _ => none
  | .reset _ _ => none
  | .illegal _ _ _ => none

/-- The restart request of RESET, behind its response (45_system.md R106). -/
def restartEvents : Instr → List Event
  | .reset _ _ => [.restartReq]
  | _ => []

/-- The events an instruction records, in order (10_state.md R18, R41). -/
def frameEvents (p : Params) (i : Instr) : List Event :=
  (writeOf? p i).toList ++ .resp (responseByte (responseOf i)) (errorCause? i) :: restartEvents i

/-- The state after a frame. -/
def afterFrame (i : Instr) (s : State) : State :=
  { s with
    run := if i.opcode? = some .reset then .restartPending else s.run
    out := replay s.out (writeOf? s.params i).toList
    tx := s.tx ++ [responseByte (responseOf i)]
    ev := s.ev ++ frameEvents s.params i
    nframes := s.nframes + 1 }

@[simp] theorem afterFrame_fcnt (i : Instr) (s : State) : (afterFrame i s).fcnt = s.fcnt := rfl
@[simp] theorem afterFrame_tx (i : Instr) (s : State) :
    (afterFrame i s).tx = s.tx ++ [responseByte (responseOf i)] := rfl
@[simp] theorem afterFrame_nbytes (i : Instr) (s : State) : (afterFrame i s).nbytes = s.nbytes := rfl
@[simp] theorem afterFrame_nframes (i : Instr) (s : State) : (afterFrame i s).nframes = s.nframes + 1 := rfl

theorem keptByFrame_afterFrame (i : Instr) (s : State) : KeptByFrame s (afterFrame i s) := by constructor <;> rfl

/-! An instruction with a cause of error makes no write and requests no restart. -/

theorem writeOf?_of_errorCause {i : Instr} {c : ErrorCause} (p : Params) (h : errorCause? i = some c) :
    writeOf? p i = none := by
  cases i with
  | pwm | digital | neopixel => simp_all [errorCause?, writeOf?]
  | servo | ping | reset => cases h
  | illegal => rfl

theorem opcode?_ne_reset_of_errorCause {i : Instr} {c : ErrorCause} (h : errorCause? i = some c) :
    i.opcode? ≠ some .reset := by
  cases i with
  | reset => cases h
  | pwm | digital | servo | neopixel | ping | illegal => simp [Instr.opcode?]

theorem restartEvents_of_ne_reset {i : Instr} (h : i.opcode? ≠ some .reset) : restartEvents i = [] := by
  cases i with
  | reset => exact absurd rfl h
  | pwm | digital | servo | neopixel | ping | illegal => rfl

theorem responseOf_of_errorCause {i : Instr} {c : ErrorCause} (h : errorCause? i = some c) :
    responseOf i = .error := by
  rw [responseOf, h]

theorem afterFrame_of_errorCause {i : Instr} {c : ErrorCause} (s : State) (h : errorCause? i = some c) :
    afterFrame i s = protocolError c (countFrame s) := by
  have hreset := opcode?_ne_reset_of_errorCause h
  simp only [afterFrame, frameEvents, h, responseOf_of_errorCause h, writeOf?_of_errorCause _ h,
    restartEvents_of_ne_reset hreset, if_neg hreset]
  rfl

/-! An instruction that writes raises no error and requests no restart. -/

theorem errorCause?_of_writeOf? {p : Params} {i : Instr} {e : Event} (h : writeOf? p i = some e) :
    errorCause? i = none := by
  cases hc : errorCause? i with
  | none => rfl
  | some c => simp [writeOf?_of_errorCause p hc] at h

theorem opcode?_ne_reset_of_writeOf? {p : Params} {i : Instr} {e : Event} (h : writeOf? p i = some e) :
    i.opcode? ≠ some .reset := by
  cases i with
  | reset => cases h
  | pwm | digital | servo | neopixel | ping | illegal => simp [Instr.opcode?]

theorem afterFrame_of_writeOf? {i : Instr} {s : State} {e : Event} (h : writeOf? s.params i = some e) :
    afterFrame i s =
      respond (okResponse i) (recordEvent e { countFrame s with out := applyEvent s.out e }) := by
  have hreset := opcode?_ne_reset_of_writeOf? h
  simp [afterFrame, frameEvents, replay, h, responseOf, errorCause?_of_writeOf? h, restartEvents_of_ne_reset hreset,
    hreset, respond, emitResponse, recordEvent, countFrame]

theorem ExecEffect.eq_afterFrame {s t : State} {i : Instr} (h : ExecEffect s i t) : t = afterFrame i s := by
  cases h with
  | error hc => exact (afterFrame_of_errorCause s hc).symm
  | @pwm tgt val m hv =>
    have hw : writeOf? s.params (.pwm tgt val) = some (.writePwm m _) := congrArg (Option.map _) hv
    exact (afterFrame_of_writeOf? hw).symm
  | @digital tgt val g hv =>
    have hw : writeOf? s.params (.digital tgt val) = some (.writeDig g _) := congrArg (Option.map _) hv
    exact (afterFrame_of_writeOf? hw).symm
  | @servo tgt val =>
    have hw : writeOf? s.params (.servo tgt val) = some (.writeServo _) := rfl
    exact (afterFrame_of_writeOf? hw).symm
  | @neopixel tgt val c hv =>
    have hw : writeOf? s.params (.neopixel tgt val) = some (.writeNeo _) := congrArg (Option.map _) hv
    exact (afterFrame_of_writeOf? hw).symm
  | ping => rfl
  | reset =>
    simp only [restartRequest, respond, emitResponse, recordEvent, List.append_assoc]
    rfl

/-- Every instruction answers, and `afterFrame` says all it does. -/
theorem exec_eq_afterFrame (i : Instr) (s : State) : exec i s = .next (afterFrame i s) := by
  obtain ⟨t, ht, he⟩ := exec_effect i s
  rw [ht, he.eq_afterFrame]

end Sys2Proof.Machine
end

section
/-! PROOFS. The events of a frame: at most one write, one response, and a restart request for RESET alone. -/

namespace Sys2Proof.Machine

/-- What a write writes (10_state.md R14 to R17): a value of its register's scale or palette. -/
theorem writeOf?_cases {p : Params} {i : Instr} {e : Event} (h : writeOf? p i = some e) :
    (∃ m v, e = .writePwm m (pwmScale p.scaleRounding v)) ∨ (∃ g b, e = .writeDig g b) ∨
    (∃ v, e = .writeServo (servoScale p.scaleRounding v)) ∨ ∃ c, e = .writeNeo (colourRgb p.neoLevel c) := by
  cases i with
  | pwm tgt val =>
    obtain ⟨m, -, rfl⟩ := Option.map_eq_some_iff.mp h
    exact .inl ⟨m, val, rfl⟩
  | digital tgt val =>
    obtain ⟨g, -, rfl⟩ := Option.map_eq_some_iff.mp h
    exact .inr (.inl ⟨g, _, rfl⟩)
  | servo tgt val =>
    obtain rfl := Option.some.inj h
    exact .inr (.inr (.inl ⟨val, rfl⟩))
  | neopixel tgt val =>
    obtain ⟨c, -, rfl⟩ := Option.map_eq_some_iff.mp h
    exact .inr (.inr (.inr ⟨c, rfl⟩))
  | ping | reset | illegal => cases h

theorem isWrite_of_writeOf? {p : Params} {i : Instr} {e : Event} (h : writeOf? p i = some e) : isWrite e = true := by
  obtain ⟨m, v, rfl⟩ | ⟨g, b, rfl⟩ | ⟨v, rfl⟩ | ⟨c, rfl⟩ := writeOf?_cases h <;> rfl

theorem respByte?_of_isWrite {e : Event} (h : isWrite e = true) : respByte? e = none := by
  cases e with
  | resp | restartReq => cases h
  | writePwm | writeDig | writeServo | writeNeo => rfl

theorem mem_restartEvents {i : Instr} {e : Event} :
    e ∈ restartEvents i ↔ e = .restartReq ∧ i.opcode? = some .reset := by
  cases i <;> simp [restartEvents, Instr.opcode?]

/-- An event of a frame is its write, its response or its restart request. -/
theorem mem_frameEvents {p : Params} {i : Instr} {e : Event} :
    e ∈ frameEvents p i ↔ writeOf? p i = some e ∨ e = .resp (responseByte (responseOf i)) (errorCause? i) ∨
      (e = .restartReq ∧ i.opcode? = some .reset) := by
  rw [frameEvents, List.mem_append, Option.mem_toList, List.mem_cons, mem_restartEvents]

theorem restartReq_mem_frameEvents {p : Params} {i : Instr} :
    .restartReq ∈ frameEvents p i ↔ i.opcode? = some .reset := by
  have hw : writeOf? p i ≠ some .restartReq := fun h => absurd (isWrite_of_writeOf? h) (by decide)
  simp [mem_frameEvents, hw]

theorem resp_mem_frameEvents {p : Params} {i : Instr} {b : Byte} {c : Option ErrorCause} :
    .resp b c ∈ frameEvents p i ↔ b = responseByte (responseOf i) ∧ c = errorCause? i := by
  have hw : writeOf? p i ≠ some (.resp b c) := fun h => absurd (isWrite_of_writeOf? h) (by simp [isWrite])
  simp [mem_frameEvents, hw]

/-- The write is the frame's only write event. -/
theorem filter_isWrite_frameEvents (p : Params) (i : Instr) :
    (frameEvents p i).filter isWrite = (writeOf? p i).toList := by
  have hrest : (restartEvents i).filter isWrite = [] := by
    cases i <;> rfl
  have hwrite : (writeOf? p i).toList.filter isWrite = (writeOf? p i).toList :=
    List.filter_eq_self.mpr fun e he => isWrite_of_writeOf? (Option.mem_toList.mp he)
  simp [frameEvents, hwrite, hrest, isWrite]

/-- R76: the frame's only response. -/
theorem filterMap_respByte?_frameEvents (p : Params) (i : Instr) :
    (frameEvents p i).filterMap respByte? = [responseByte (responseOf i)] := by
  have hrest : (restartEvents i).filterMap respByte? = [] := by
    cases i <;> rfl
  have hwrite : (writeOf? p i).toList.filterMap respByte? = [] :=
    List.filterMap_eq_nil_iff.mpr fun e he => respByte?_of_isWrite (isWrite_of_writeOf? (Option.mem_toList.mp he))
  rw [frameEvents, List.filterMap_append, hwrite, List.nil_append, List.filterMap_cons, hrest]
  rfl

theorem frameEvents_ne_nil (p : Params) (i : Instr) : frameEvents p i ≠ [] := by
  simp [frameEvents]

/-! The registers that a trace leaves. -/

theorem replay_append (r : OutRegs) (es fs : List Event) : replay r (es ++ fs) = replay (replay r es) fs :=
  List.foldl_append

/-- Only the writes of a trace change the registers. -/
theorem replay_filter_isWrite (r : OutRegs) (es : List Event) : replay r (es.filter isWrite) = replay r es := by
  induction es generalizing r with
  | nil => rfl
  | cons e es ih => cases e <;> exact ih _

theorem replay_frameEvents (r : OutRegs) (p : Params) (i : Instr) :
    replay r (frameEvents p i) = replay r (writeOf? p i).toList := by
  rw [← replay_filter_isWrite, filter_isWrite_frameEvents]

/-- The last write wins, so the same write again changes nothing. -/
theorem applyEvent_applyEvent_same (r : OutRegs) (e : Event) : applyEvent (applyEvent r e) e = applyEvent r e := by
  cases e with
  | writePwm | writeDig => simp [applyEvent]
  | writeServo | writeNeo | resp | restartReq => rfl

/-- 20_memory.md R39. -/
theorem replay_toList_twice (r : OutRegs) (w : Option Event) :
    replay (replay r w.toList) w.toList = replay r w.toList := by
  cases w with
  | none => rfl
  | some e => exact applyEvent_applyEvent_same r e

/-- Settles O25: the list is `frameEvents p i`, and `exec_eq_afterFrame` is the state. -/
theorem effectDependsOnTheFrameAlone : Obligations.EffectDependsOnTheFrameAlone := by
  intro i p
  refine ⟨frameEvents p i, ?_, ?_⟩
  · rw [filter_isWrite_frameEvents]
    exact Option.length_toList_le
  · rintro s rfl
    refine ⟨_, exec_eq_afterFrame i s, keptByFrame_afterFrame i s, rfl, ?_, ?_, ?_⟩
    · rw [filterMap_respByte?_frameEvents]
      rfl
    · rw [filter_isWrite_frameEvents]
      rfl
    · simp only [restartReq_mem_frameEvents]
      rfl

/-- Settles O26: both times the frame records the same events, of which the one write is idempotent. -/
theorem repeatedFrameIsIdempotentOnRegisters : Obligations.RepeatedFrameIsIdempotentOnRegisters := by
  intro i s
  refine ⟨_, _, frameEvents s.params i, exec_eq_afterFrame i s, exec_eq_afterFrame i (afterFrame i s),
    replay_toList_twice _ _, frameEvents_ne_nil _ _, rfl, rfl, ?_⟩
  simp [afterFrame]

end Sys2Proof.Machine
end

section
/-! PROOFS. The invariants of a run (10_state.md section 10): they hold at reset, and every step keeps them. -/

namespace Sys2Proof.Machine

/-- Settles O35: the traces are empty and the registers are the reset values. -/
theorem resetStateMeetsInvariants : Obligations.ResetStateMeetsInvariants where
  restartPending _ := rfl
  pwmDuty _ := .inl rfl
  servoDuty := .inl rfl
  neoRgb := .inl rfl
  responses := rfl
  txOfEv := rfl
  bytes := rfl
  registers := rfl
  causesNamed _ _ h := absurd h List.not_mem_nil
  restartRecorded := by simp [State.reset]

/-- R25 (c) to (e): every register is at its reset value or holds a value of its scale or palette. -/
structure InScale (p : Params) (r : OutRegs) : Prop where
  pwm   : ∀ m, readPwm r m = readPwm p.resetValues m ∨ ∃ v, readPwm r m = pwmScale p.scaleRounding v
  servo : r.servo = p.resetValues.servo ∨ ∃ v, r.servo = servoScale p.scaleRounding v
  neo   : r.neo = p.resetValues.neo ∨ ∃ c, r.neo = colourRgb p.neoLevel c

theorem State.Inv.inScale {s : State} (h : s.Inv) : InScale s.params s.out := ⟨h.pwmDuty, h.servoDuty, h.neoRgb⟩

/-- What an instruction writes is of the register's scale. -/
theorem InScale.applyEvent {p : Params} {r : OutRegs} {i : Instr} {e : Event} (h : InScale p r)
    (hw : writeOf? p i = some e) : InScale p (applyEvent r e) := by
  obtain ⟨m, v, rfl⟩ | ⟨g, b, rfl⟩ | ⟨v, rfl⟩ | ⟨c, rfl⟩ := writeOf?_cases hw
  · refine ⟨fun m' => ?_, h.servo, h.neo⟩
    by_cases hm : m' = m
    · subst hm
      exact .inr ⟨v, readPwm_putPwm_same _ _ _⟩
    · rw [Machine.applyEvent, readPwm_putPwm_other _ _ hm]
      exact h.pwm m'
  · exact ⟨h.pwm, h.servo, h.neo⟩
  · exact ⟨h.pwm, .inr ⟨v, rfl⟩, h.neo⟩
  · exact ⟨h.pwm, h.servo, .inr ⟨c, rfl⟩⟩

theorem InScale.afterFrame {s : State} (i : Instr) (h : InScale s.params s.out) :
    InScale s.params (afterFrame i s).out := by
  rw [Machine.afterFrame]
  cases hw : writeOf? s.params i with
  | none => exact h
  | some e => exact h.applyEvent hw

/-- 0xEE is the response to the frames that raise an error, and to no others (30_encoding.md R57). -/
theorem errorCause?_isSome_iff {i : Instr} : (errorCause? i).isSome ↔ responseByte (responseOf i) = 0xEE := by
  cases h : errorCause? i with
  | some c => simp [responseOf_of_errorCause h, responseByte]
  | none =>
    rw [responseOf, h]
    cases i with
    | illegal => cases h
    | pwm | digital | servo | neopixel | ping | reset => simp [okResponse, responseByte]

/-- The invariants do not read the transport and the schedule. -/
theorem State.Inv.of_sameBlock {s t : State} (h : s.Inv) (hb : SameBlock s t) : t.Inv where
  restartPending := by rw [hb.run, hb.fcnt]; exact h.restartPending
  pwmDuty := by rw [hb.out, hb.params]; exact h.pwmDuty
  servoDuty := by rw [hb.out, hb.params]; exact h.servoDuty
  neoRgb := by rw [hb.out, hb.params]; exact h.neoRgb
  responses := by rw [hb.tx, hb.nframes, hb.params]; exact h.responses
  txOfEv := by rw [hb.tx, hb.ev]; exact h.txOfEv
  bytes := by rw [hb.nbytes, hb.nframes, hb.fcnt]; exact h.bytes
  registers := by rw [hb.out, hb.params, hb.ev]; exact h.registers
  causesNamed := by rw [hb.ev]; exact h.causesNamed
  restartRecorded := by rw [hb.ev, hb.run]; exact h.restartRecorded

/-- A host's byte changes the transport and the schedule only. -/
theorem sameBlock_send (s : State) (b : Byte) (ts : List Turn) : SameBlock s (hostSend b { s with sched := ts }) := by
  obtain ⟨hparams, hfcnt, hfOp, hfTgt, hrun, hout, htx, hev, hnbytes, hnframes⟩ :=
    hostSend_sameBlock b { s with sched := ts }
  exact ⟨hparams, hfcnt, hfOp, hfTgt, hrun, hout, htx, hev, hnbytes, hnframes⟩

/-- The frame that a third byte completes keeps the invariants. -/
theorem State.Inv.afterFrame {s : State} (i : Instr) (rest : List Byte) (ts : List Turn) (h : s.Inv)
    (hr : s.run = .running) (hc : s.fcnt = .two) :
    (afterFrame i { s with fcnt := .zero, nbytes := s.nbytes + 1, rx := rest, sched := ts }).Inv where
  restartPending _ := rfl
  pwmDuty := (h.inScale.afterFrame i).pwm
  servoDuty := (h.inScale.afterFrame i).servo
  neoRgb := (h.inScale.afterFrame i).neo
  responses := by
    have hlen : s.tx.length = s.nframes + announcements s.params := h.responses
    simp only [Machine.afterFrame, List.length_append, List.length_singleton]
    omega
  txOfEv := by simp [Machine.afterFrame, h.txOfEv, filterMap_respByte?_frameEvents]
  bytes := by
    have hbytes : s.nbytes = 3 * s.nframes + 2 := by simpa [hc, frameCountVal] using h.bytes
    simp only [Machine.afterFrame, frameCountVal]
    omega
  registers := by simp [Machine.afterFrame, replay_append, replay_frameEvents, ← h.registers]
  causesNamed b cause hmem := by
    rcases List.mem_append.mp hmem with hmem | hmem
    · exact h.causesNamed b cause hmem
    · obtain ⟨rfl, rfl⟩ := resp_mem_frameEvents.mp hmem
      exact errorCause?_isSome_iff
  restartRecorded := by simp [Machine.afterFrame, restartReq_mem_frameEvents, h.restartRecorded, hr]

/-- `rst` starts a run anew, with or without the announcement. -/
theorem inv_applyRst (lost : Nat) (s : State) : (applyRst lost s).Inv := by
  rw [applyRst_eq]
  cases hb : s.params.bootAnnounce <;>
    exact
      { restartPending := fun _ => rfl
        pwmDuty := fun _ => .inl rfl
        servoDuty := .inl rfl
        neoRgb := .inl rfl
        responses := by simp [announcements, hb]
        txOfEv := rfl
        bytes := rfl
        registers := rfl
        causesNamed := by simp
        restartRecorded := by simp }

/-- Settles O36: a stored byte moves FCNT and NBYTES together, a completed frame is `State.Inv.afterFrame`, and the
environment's turns keep the block or reset it. -/
theorem stepKeepsInvariants : Obligations.StepKeepsInvariants := by
  intro s t h ht
  cases step_cases ht with
  | idle => exact h.of_sameBlock (by constructor <;> rfl)
  | opcode _ hr _ hc | target _ hr _ hc =>
    exact { h with
      restartPending := by simp [hr]
      bytes := by simp [h.bytes, hc, frameCountVal] }
  | frame _ hr _ hc he =>
    obtain rfl := (exec_cases he).eq_afterFrame
    exact h.afterFrame _ _ _ hr hc
  | send => exact h.of_sameBlock (sameBlock_send _ _ _)
  | rst => exact inv_applyRst _ _

end Sys2Proof.Machine
end

section
/-! PROOFS. The rescales (41_pwm.md R86, 43_servo.md R96), the SERVO and NEOPIXEL frames, and the ranges that the
registers stay in. -/

namespace Sys2Proof.Machine

theorem div_le_roundedDiv (r : Rounding) (num den : Nat) : num / den ≤ roundedDiv r num den := by
  cases r with
  | nearestUp =>
    have htwice : num / den = 2 * num / (2 * den) := (Nat.mul_div_mul_left num den (by decide)).symm
    rw [roundedDiv, htwice]
    exact Nat.div_le_div_right (Nat.le_add_right _ _)
  | nearestEven => simp only [roundedDiv]; split <;> [exact le_rfl; (split <;> omega)]
  | floor => exact le_rfl

/-- Two whole units apart, two quotients round to different numbers, whichever way each goes. -/
theorem roundedDiv_lt_roundedDiv (r : Rounding) {num num' den : Nat} (hden : 0 < den) (h : num + 2 * den ≤ num') :
    roundedDiv r num den < roundedDiv r num' den := by
  have hquot : num / den + 2 ≤ num' / den := by
    rw [← Nat.add_mul_div_right num 2 hden]
    exact Nat.div_le_div_right h
  have hlow : roundedDiv r num den ≤ num / den + 1 := roundedDiv_le r num den hden
  have hhigh : num' / den ≤ roundedDiv r num' den := div_le_roundedDiv r num' den
  omega

/-- The highest value is that of 255 (R97). -/
theorem roundedDiv_servo_le (r : Rounding) (val : Byte) : roundedDiv r (6554 * val.toNat) 180 ≤ 9285 := by
  have hval : val.toNat < 256 := val.isLt
  have hle : roundedDiv r (6554 * val.toNat) 180 ≤ 6554 * val.toNat / 180 + 1 := roundedDiv_le r _ _ (by decide)
  omega

/-- No rounding overflows `SERVO_DUTY`. -/
theorem servoScale_toNat (r : Rounding) (val : Byte) :
    (servoScale r val).toNat = 1638 + roundedDiv r (6554 * val.toNat) 180 := by
  have hle : roundedDiv r (6554 * val.toNat) 180 ≤ 9285 := roundedDiv_servo_le r val
  rw [servoScale, BitVec.toNat_ofNat, Nat.mod_eq_of_lt (by omega)]

/-- R96's formula, under the default rounding. -/
theorem servoScale_nearestUp_toNat (val : Byte) :
    (servoScale .nearestUp val).toNat = 1638 + (6554 * val.toNat + 90) / 180 := by
  rw [servoScale_toNat, roundedDiv]
  omega

theorem pwmScale_strictMono (r : Rounding) {v w : Byte} (h : v.toNat < w.toNat) :
    (pwmScale r v).toNat < (pwmScale r w).toNat := by
  rw [pwmScale_toNat, pwmScale_toNat]
  exact roundedDiv_lt_roundedDiv r (by decide) (by omega)

theorem servoScale_strictMono (r : Rounding) {v w : Byte} (h : v.toNat < w.toNat) :
    (servoScale r v).toNat < (servoScale r w).toNat := by
  rw [servoScale_toNat, servoScale_toNat]
  exact Nat.add_lt_add_left (roundedDiv_lt_roundedDiv r (by decide) (by omega)) 1638

/-- Settles O28: the bounds are those of the division in each formula; both slopes exceed two units a step. -/
theorem scalesRoundToNearest : Obligations.ScalesRoundToNearest := by
  refine ⟨fun v => ?nearest, fun r v w => ?everyRounding⟩
  case nearest =>
    have hpwm := pwmScale_nearestUp_toNat v
    have hservo := servoScale_nearestUp_toNat v
    refine ⟨hpwm, hservo, ?_, ?_, ?_, ?_⟩ <;> omega
  case everyRounding =>
    refine ⟨?_, ?_, ?_, ?_, fun h => ⟨pwmScale_strictMono r h, servoScale_strictMono r h⟩⟩ <;> cases r <;> rfl

/-- Settles O16: SERVO has the one case `execServo_next`. -/
theorem servoFrameEffect : Obligations.ServoFrameEffect := by
  intro s tgt val
  refine ⟨_, execServo_next s tgt val, (ExecEffect.servo (tgt := tgt)).kept, rfl, rfl, ?_, rfl, rfl, rfl, ?_, rfl⟩
  · intro hr
    rw [respond_out, writeServo_out, putServo_servo, hr, servoScale_nearestUp_toNat]
  · simp [responseByte]

/-- Each of the five codes is matched, and its colour is the three components side by side (R101). -/
theorem colourOf?_of_code {level val r g b : Byte}
    (h : (val, r, g, b) = (0x00, 0x00, 0x00, 0x00) ∨ (val, r, g, b) = (0x01, level, 0x00, 0x00) ∨
      (val, r, g, b) = (0x02, 0x00, level, 0x00) ∨ (val, r, g, b) = (0x03, 0x00, 0x00, level) ∨
      (val, r, g, b) = (0xFF, level, level, level)) :
    ∃ c, colourOf? val = some c ∧ colourRgb level c = r ++ g ++ b := by
  simp only [Prod.mk.injEq] at h
  obtain ⟨rfl, rfl, rfl, rfl⟩ | ⟨rfl, rfl, rfl, rfl⟩ | ⟨rfl, rfl, rfl, rfl⟩ | ⟨rfl, rfl, rfl, rfl⟩ |
    ⟨rfl, rfl, rfl, rfl⟩ := h
  · exact ⟨.black, rfl, rfl⟩
  · exact ⟨.red, rfl, rfl⟩
  · exact ⟨.green, rfl, rfl⟩
  · exact ⟨.blue, rfl, rfl⟩
  · exact ⟨.white, rfl, rfl⟩

/-- Settles O17: a code is matched by `colourOf?_of_code`, and three bytes side by side are a frame word's number. -/
theorem neopixelFrameEffect : Obligations.NeopixelFrameEffect := by
  intro s tgt val r g b h
  obtain ⟨c, hc, hrgb⟩ := colourOf?_of_code h
  refine ⟨_, execNeopixel_valid s tgt hc, (ExecEffect.neopixel (tgt := tgt) hc).kept, rfl, ?_, rfl, rfl, rfl, ?_,
    rfl⟩
  · rw [respond_out, writeNeo_out, putNeo_neo, hrgb]
    exact Frame.word_toNat ⟨r, g, b⟩
  · simp [responseByte]

/-- R101: the five values of NEO_RGB at the default level. -/
theorem colourRgb_default_mem (c : Colour) :
    colourRgb 0xFF c ∈ ([0x000000, 0xFF0000, 0x00FF00, 0x0000FF, 0xFFFFFF] : List (BitVec 24)) := by
  cases c <;> decide

theorem servoScale_bounds (r : Rounding) (val : Byte) :
    1638 ≤ (servoScale r val).toNat ∧ (servoScale r val).toNat ≤ 10923 := by
  have hle : roundedDiv r (6554 * val.toNat) 180 ≤ 9285 := roundedDiv_servo_le r val
  rw [servoScale_toNat]
  omega

/-- Settles O37: each register invariant, with the defaults put in; a PWM register at reset holds the value of 0. -/
theorem registersStayInTheirRanges : Obligations.RegistersStayInTheirRanges := by
  intro s h hp
  obtain ⟨hpwm, hservo, hneo⟩ := h.inScale
  rw [hp] at hpwm hservo hneo
  refine ⟨?servo, ?neo, fun m => ?pwm⟩
  case servo =>
    rcases hservo with hreset | ⟨v, hv⟩
    · exact .inl (by rw [hreset]; rfl)
    · exact .inr (hv ▸ servoScale_bounds _ v)
  case neo =>
    rcases hneo with hreset | ⟨c, hc⟩
    · exact hreset ▸ List.mem_cons_self
    · exact hc ▸ colourRgb_default_mem c
  case pwm =>
    rcases hpwm m with hreset | ⟨v, hv⟩
    · exact ⟨0, by rw [hreset]; cases m <;> rfl⟩
    · exact ⟨v, hv ▸ pwmScale_nearestUp_toNat v⟩

end Sys2Proof.Machine
end

section
/-! PROOFS. One step (40_dispatch.md section 1, 10_state.md sections 1 and 3, 70_reset_and_hazards.md): what the block's
turn, a host's byte and reset do, and what no step does. -/

namespace Sys2Proof.Machine

/-- Settles O7: `step_value`, the three bytes being those of one frame. -/
theorem stepRunsDecodedFrame : Obligations.StepRunsDecodedFrame := by
  intro s b rest i hb hr hc hx hdec
  obtain ⟨rfl, -⟩ := DecodeResult.instr.inj hdec
  exact step_value hb hr hx hc

theorem decodeTableWord_eq_some {nbits w : Nat} {i : Instr} (h : decodeTableWord nbits w = some i) :
    decodeFrame (tableFrame nbits w) = i := by
  unfold decodeTableWord at h
  split at h
  · exact Option.some.inj h
  · cases h

/-- Settles O8: `withFetchWord` holds the word's first two bytes and offers the third, so the step is `step_value`. -/
theorem fetchWordIsRunNext : Obligations.FetchWordIsRunNext := by
  intro s nbits w i h
  obtain rfl := decodeTableWord_eq_some h
  refine ⟨_, step_value (s := s.withFetchWord nbits w) (.inr ⟨s.sched, rfl⟩) rfl rfl rfl,
    rfl, rfl, rfl, rfl, rfl, rfl, rfl, rfl, rfl, ?_⟩
  cases hc : s.fcnt <;> simp [State.withFetchWord, hc, frameCountVal]

/-- Settles O9: `step_opcode` and `step_target`. -/
theorem firstTwoBytesAreOnlyStored : Obligations.FirstTwoBytesAreOnlyStored := by
  intro s b rest hb hr hx
  exact ⟨step_opcode hb hr hx, step_target hb hr hx⟩

/-- Settles O10: `step_idle`. -/
theorem noByteNoChange : Obligations.NoByteNoChange := by
  intro s hb hx
  exact step_idle hb (.inr hx)

/-- Settles O12: `exec_eq_afterFrame` and `step_effect` give the next states. -/
theorem nothingStopsTheBlock : Obligations.NothingStopsTheBlock := by
  refine ⟨fun i s => ⟨_, exec_eq_afterFrame i s⟩, fun s => ?_⟩
  obtain ⟨t, ht, -⟩ := step_effect s
  exact ⟨t, ht⟩

/-- Settles O20: RESET has the one case `execReset_next`. -/
theorem resetFrameEffect : Obligations.ResetFrameEffect := by
  intro s tgt val
  refine ⟨_, execReset_next s tgt val, (ExecEffect.reset (tgt := tgt) (val := val)).kept, rfl, rfl, ?_, rfl⟩
  simp [responseByte]

theorem applyRst_params (lost : Nat) (s : State) : (applyRst lost s).params = s.params := by rw [applyRst_eq]

/-- Settles O13: no case of `StepEffect` writes the parameters. -/
theorem parametersAreConstant : Obligations.ParametersAreConstant := by
  intro s t ht
  cases step_cases ht with
  | idle | opcode | target => rfl
  | frame _ _ _ _ he => exact (exec_cases he).kept.params
  | send => exact (sameBlock_send _ _ _).params
  | rst => exact applyRst_params _ _

theorem not_blockMoves_of_send {s : State} {b : Byte} {ts : List Turn} (hs : s.sched = .send b :: ts) :
    ¬ s.blockMoves := by
  simp [State.blockMoves, hs]

/-- Settles O29: with RUN = RESTART_PENDING the block's turn is idle. -/
theorem restartPendingFreezesTheBlock : Obligations.RestartPendingFreezesTheBlock := by
  intro s hr hrst
  obtain ⟨t, ht, he⟩ := step_effect s
  refine ⟨t, ht, ?_⟩
  cases he with
  | idle => exact ⟨by constructor <;> rfl, fun _ => rfl⟩
  | opcode _ hrun | target _ hrun | frame _ hrun => simp [hr] at hrun
  | send hs => exact ⟨sameBlock_send _ _ _, fun hb => absurd hb (not_blockMoves_of_send hs)⟩
  | rst hs => simp [rstIn_rst hs] at hrst

/-- The frames of RESET are those with its opcode byte (R51). -/
theorem opcode?_decodeFrame_eq_reset_iff {f : Frame} : (decodeFrame f).opcode? = some .reset ↔ f.op = 0xFF := by
  rw [opcode?_decodeFrame, opcodeOf?_eq_some]
  rfl

/-- A frame that leaves RUN pending where it was RUNNING is a RESET frame, answered with 0xBB. -/
theorem run_afterFrame_eq_restartPending {i : Instr} {s : State} (hr : s.run = .running)
    (h : (afterFrame i s).run = .restartPending) :
    i.opcode? = some .reset ∧ (afterFrame i s).tx = s.tx ++ [0xBB] := by
  have hi : i.opcode? = some .reset := by simpa [afterFrame, hr] using h
  refine ⟨hi, ?_⟩
  cases i with
  | reset => rfl
  | pwm | digital | servo | neopixel | ping | illegal => cases hi

/-- Settles O30: only a completed frame makes RUN pending, and then `run_afterFrame_eq_restartPending` names it. -/
theorem onlyAResetFrameRequestsRestart : Obligations.OnlyAResetFrameRequestsRestart := by
  intro s t ht hr hpending
  cases step_cases ht with
  | idle | opcode | target => simp [hr] at hpending
  | frame hb _ hx hc he =>
    obtain rfl := (exec_cases he).eq_afterFrame
    obtain ⟨hi, htx⟩ := run_afterFrame_eq_restartPending hr hpending
    exact ⟨hb, hc, opcode?_decodeFrame_eq_reset_iff.mp hi, ⟨_, hx⟩, htx⟩
  | send =>
    rw [(sameBlock_send _ _ _).run, hr] at hpending
    cases hpending
  | rst => simp [applyRst_eq] at hpending

/-! The transport (20_memory.md R45, 70_reset_and_hazards.md R155). -/

theorem hostSend_rx_unbounded (b : Byte) {s : State} (h : s.params.rxDepth = none) :
    (hostSend b s).rx = s.rx ++ [b] := by
  simp [hostSend, hasRoom, h]

theorem hostSend_rx_depth (b : Byte) {s : State} {d : Nat} (h : s.params.rxDepth = some d) :
    (hostSend b s).rx = if s.rx.length < d then s.rx ++ [b] else s.rx := by
  by_cases hlen : s.rx.length < d <;> simp [hostSend, hasRoom, h, hlen]

/-- The bytes that waited still wait, in their places. -/
theorem prefix_hostSend_rx (b : Byte) (s : State) : s.rx <+: (hostSend b s).rx := by
  rcases hostSend_cases b s with h | ⟨-, h⟩ <;> rw [h]
  exact List.prefix_append _ _

theorem hostSend_sched (b : Byte) (s : State) : (hostSend b s).sched = s.sched := by
  unfold hostSend
  split <;> rfl

/-- Settles O33: `step_send`, by the depth. -/
theorem hostSendQueuesInOrder : Obligations.HostSendQueuesInOrder := by
  intro s b ts hs
  exact ⟨_, step_send hs, sameBlock_send s b ts, hostSend_sched _ _, fun h => hostSend_rx_unbounded b h,
    fun _ h => hostSend_rx_depth b h⟩

theorem length_survivors_le (p : RxPolicy) (lost : Nat) (rx : List Byte) :
    (survivors p lost rx).length ≤ rx.length := by
  cases p with
  | flush => exact Nat.zero_le _
  | keep => exact le_rfl
  | any => exact (List.drop_sublist lost rx).length_le

/-- Settles O34: only a host's byte lengthens the queue, and only where it has room. -/
theorem transportStaysWithinDepth : Obligations.TransportStaysWithinDepth := by
  intro s t d hd hlen ht
  refine ⟨by rw [parametersAreConstant s t ht, hd], ?_⟩
  cases step_cases ht with
  | idle => exact hlen
  | opcode _ _ hx | target _ _ hx =>
    rw [hx, List.length_cons] at hlen
    exact Nat.le_of_succ_le hlen
  | frame _ _ hx _ he =>
    rw [hx, List.length_cons] at hlen
    rw [(exec_cases he).kept.rx]
    exact Nat.le_of_succ_le hlen
  | @send b ts =>
    rw [hostSend_rx_depth b (s := { s with sched := ts }) hd]
    split
    case isTrue hroom => simpa using hroom
    case isFalse => exact hlen
  | @rst lost ts =>
    rw [applyRst_eq]
    exact (length_survivors_le _ _ _).trans hlen

/-- Settles O32: `step_rst`, with the state of `applyRst_eq`. -/
theorem rstPutsTheResetState : Obligations.RstPutsTheResetState := by
  intro s lost ts hs
  have hstep := step_rst hs
  rw [applyRst_eq] at hstep
  refine ⟨_, hstep, rfl, rfl, rfl, rfl, rfl, rfl, rfl, rfl, rfl, ?_, ?_, ?_, ?_, ?_, ?default⟩
  case default =>
    intro hp
    simp only [hp]
    refine ⟨by constructor <;> rfl, fun m => ?_, fun ⟨m, e⟩ => ?_, rfl, rfl⟩
    · cases m <;> rfl
    · cases m <;> cases e <;> rfl
  all_goals
    intro h
    simp [h, survivors]

/-- Settles O11: by the case of `StepEffect`; the frame executed is the two bytes held and the offered one. -/
theorem partialFrameIsHeld : Obligations.PartialFrameIsHeld := by
  intro s
  obtain ⟨t, ht, he⟩ := step_effect s
  refine ⟨t, ht, ?_⟩
  cases he with
  | idle hb h => exact .inr (.inl ⟨.inr ⟨hb, h.symm⟩, rfl, by constructor <;> rfl, List.prefix_rfl⟩)
  | opcode hb _ hx hc | target hb _ hx hc =>
    refine .inr (.inr (.inl ⟨hb, ?_, by constructor <;> rfl, _, hx, ?_⟩)) <;> simp [heldBytes, hc, frameCountVal]
  | @frame b rest _ hb _ hx hc he =>
    have hkept := (exec_cases he).kept
    refine .inr (.inr (.inr ⟨hb, ?_, ?_, b, ⟨s.fOp, s.fTgt, b⟩, _, ?_, ?_, ?_, he⟩))
    · simp [heldBytes, hc, frameCountVal]
    · simp [heldBytes, hkept.fcnt, frameCountVal]
    · rw [hx, hkept.rx]
    · simp [heldBytes, hc, frameCountVal, Frame.bytes]
    · constructor <;> rfl
  | @send b ts hs =>
    have hsame := sameBlock_send s b ts
    refine .inr (.inl ⟨.inl ⟨b, ts, hs⟩, ?_, ⟨hsame.out, hsame.tx, hsame.ev, hsame.run, hsame.nframes⟩,
      prefix_hostSend_rx b { s with sched := ts }⟩)
    rw [heldBytes, hsame.fOp, hsame.fTgt, hsame.fcnt, heldBytes]
  | rst hs => exact .inl ⟨rstIn_rst hs, by rw [applyRst_eq]; rfl⟩

end Sys2Proof.Machine
end

section
/-! PROOFS. The strobes (10_state.md section 6): outside reset, a step's events hold at most one write, which is all
that changes the registers, and one response if the step completes a frame. -/

namespace Sys2Proof.Machine

/-- What a step outside reset does to the outputs: `w` is its write, `b` its response byte. -/
structure StepOutputs (s t : State) (w : Option Event) (b : Option Byte) : Prop where
  writes    : (stepEvents s).filter isWrite = w.toList
  out       : t.out = replay s.out w.toList
  responses : (stepEvents s).filterMap respByte? = b.toList
  tx        : t.tx = s.tx ++ b.toList
  frames    : b.isSome ↔ t.nframes = s.nframes + 1

/-- A step that completes no frame has no outputs. -/
theorem stepOutputs_none {s t : State} (hr : rstIn s = false) (ht : step s = .next t) (hout : t.out = s.out)
    (htx : t.tx = s.tx) (hev : t.ev = s.ev) (hnframes : t.nframes = s.nframes) : StepOutputs s t none none := by
  have hevents : stepEvents s = [] := stepEvents_of_ev_append hr ht (by rw [hev, List.append_nil])
  exact ⟨by rw [hevents]; rfl, hout, by rw [hevents]; rfl, htx.trans (List.append_nil _).symm, by simp [hnframes]⟩

theorem exists_stepOutputs {s t : State} (hr : rstIn s = false) (ht : step s = .next t) :
    ∃ w b, StepOutputs s t w b := by
  cases step_cases ht with
  | idle | opcode | target => exact ⟨none, none, stepOutputs_none hr ht rfl rfl rfl rfl⟩
  | frame _ _ _ _ he =>
    obtain rfl := (exec_cases he).eq_afterFrame
    have hevents := stepEvents_of_ev_append (es := frameEvents s.params _) hr ht rfl
    exact ⟨_, some _, by rw [hevents, filter_isWrite_frameEvents], rfl,
      by rw [hevents, filterMap_respByte?_frameEvents]; rfl, rfl, by simp [afterFrame]⟩
  | @send b ts =>
    have hsame := sameBlock_send s b ts
    exact ⟨none, none, stepOutputs_none hr ht hsame.out hsame.tx hsame.ev hsame.nframes⟩
  | rst hs => simp [rstIn_rst hs] at hr

/-! Each strobe is the write of its register. -/

section
variable {s : State} {w : Option Event} (h : (stepEvents s).filter isWrite = w.toList)
include h

/-- A signal that is raised on some writes reads the step's one write. -/
theorem any_stepEvents_iff {p : Event → Bool} (hp : ∀ e, p e = true → isWrite e = true) :
    (stepEvents s).any p = true ↔ ∃ e, w = some e ∧ p e = true := by
  have hmem (e : Event) : w = some e ↔ e ∈ stepEvents s ∧ isWrite e = true := by
    rw [← List.mem_filter, h, Option.mem_toList]
  rw [List.any_eq_true]
  refine exists_congr fun e => and_congr_left fun he => ?_
  rw [hmem, and_iff_left (hp e he)]

theorem pwmWe_iff (m : Motor) : pwmWe s m = true ↔ ∃ d, w = some (.writePwm m d) := by
  rw [pwmWe, any_stepEvents_iff h (by intro e he; cases e <;> trivial)]
  cases w with
  | none => simp
  | some e => cases e <;> simp

theorem digWe_iff (g : Tag) : digWe s g = true ↔ ∃ b, w = some (.writeDig g b) := by
  rw [digWe, any_stepEvents_iff h (by intro e he; cases e <;> trivial)]
  cases w with
  | none => simp
  | some e => cases e <;> simp

theorem servoWe_iff : servoWe s = true ↔ ∃ d, w = some (.writeServo d) := by
  rw [servoWe, any_stepEvents_iff h (by intro e he; cases e <;> trivial)]
  cases w with
  | none => simp
  | some e => cases e <;> simp

theorem neoShow_iff : neoShow s = true ↔ ∃ c, w = some (.writeNeo c) := by
  rw [neoShow, any_stepEvents_iff h (by intro e he; cases e <;> trivial)]
  cases w with
  | none => simp
  | some e => cases e <;> simp

end

/-! A write leaves the registers it does not name. -/

theorem readPwm_replay_write {r : OutRegs} {w : Option Event} {m : Motor} (h : ∀ d, w ≠ some (.writePwm m d)) :
    readPwm (replay r w.toList) m = readPwm r m := by
  match w with
  | some (.writePwm m' d) =>
    have hm : m ≠ m' := fun hm => h d (by rw [hm])
    exact readPwm_putPwm_other r d hm
  | none | some (.writeDig _ _) | some (.writeServo _) | some (.writeNeo _) | some (.resp _ _) | some .restartReq => rfl

theorem readDig_replay_write {r : OutRegs} {w : Option Event} {g : Tag} (h : ∀ b, w ≠ some (.writeDig g b)) :
    readDig (replay r w.toList) g = readDig r g := by
  match w with
  | some (.writeDig g' b) =>
    have hg : g ≠ g' := fun hg => h b (by rw [hg])
    exact readDig_putDig_other r b hg
  | none | some (.writePwm _ _) | some (.writeServo _) | some (.writeNeo _) | some (.resp _ _) | some .restartReq => rfl

theorem servo_replay_write {r : OutRegs} {w : Option Event} (h : ∀ d, w ≠ some (.writeServo d)) :
    (replay r w.toList).servo = r.servo := by
  match w with
  | some (.writeServo d) => exact absurd rfl (h d)
  | none | some (.writePwm _ _) | some (.writeDig _ _) | some (.writeNeo _) | some (.resp _ _) | some .restartReq => rfl

theorem neo_replay_write {r : OutRegs} {w : Option Event} (h : ∀ c, w ≠ some (.writeNeo c)) :
    (replay r w.toList).neo = r.neo := by
  match w with
  | some (.writeNeo c) => exact absurd rfl (h c)
  | none | some (.writePwm _ _) | some (.writeDig _ _) | some (.writeServo _) | some (.resp _ _)
  | some .restartReq => rfl

theorem txData_eq {s : State} {b : Option Byte} (h : (stepEvents s).filterMap respByte? = b.toList) :
    txData s = b := by
  rw [txData, ← List.head?_filterMap, h]
  cases b <;> rfl

/-- Settles O27: the strobes all name the one write of `exists_stepOutputs`, and `tx_data` its response. -/
theorem strobesTellTheWrites : Obligations.StrobesTellTheWrites := by
  intro s
  obtain ⟨t, ht, -⟩ := step_effect s
  refine ⟨t, ht, fun hr => ?_⟩
  obtain ⟨w, b, h⟩ := exists_stepOutputs hr ht
  simp only [← Bool.not_eq_true, pwmWe_iff h.writes, digWe_iff h.writes, servoWe_iff h.writes, neoShow_iff h.writes,
    not_exists, txValid, txData_eq h.responses, h.out]
  refine ⟨?_, ?_, ?_, ?_, ?_, fun _ => readPwm_replay_write, fun _ => readDig_replay_write, servo_replay_write,
    neo_replay_write, h.frames, h.tx⟩
  · rintro m m' ⟨d, rfl⟩ ⟨d', hd'⟩
    cases hd'
    rfl
  · rintro g g' ⟨b, rfl⟩ ⟨b', hb'⟩
    cases hb'
    rfl
  · rintro ⟨m, d, rfl⟩
    simp
  · rintro ⟨g, b, rfl⟩
    simp
  · rintro ⟨d, rfl⟩
    simp

end Sys2Proof.Machine
end

section
/-! PROOFS. Runs over an offered byte string (40_dispatch.md section 3, 20_memory.md sections 3 and 5): the block takes
one byte a step, so a run is a fold over the bytes, and nothing in it reads EV. -/

namespace Sys2Proof.Machine

/-- The block with one more byte offered to it: with RUN = RESTART_PENDING it takes none (10_state.md R13). -/
def feed (s : State) (b : Byte) : State :=
  match s.run, s.fcnt with
  | .restartPending, _ => s
  | .running, .zero => { s with fcnt := .one, fOp := b, nbytes := s.nbytes + 1 }
  | .running, .one => { s with fcnt := .two, fTgt := b, nbytes := s.nbytes + 1 }
  | .running, .two =>
    afterFrame (decodeFrame ⟨s.fOp, s.fTgt, b⟩) { s with fcnt := .zero, nbytes := s.nbytes + 1 }

section
variable {s : State} (b : Byte)

theorem feed_pending (hr : s.run = .restartPending) : feed s b = s := by simp [feed, hr]

theorem feed_opcode (hr : s.run = .running) (hc : s.fcnt = .zero) :
    feed s b = { s with fcnt := .one, fOp := b, nbytes := s.nbytes + 1 } := by simp [feed, hr, hc]

theorem feed_target (hr : s.run = .running) (hc : s.fcnt = .one) :
    feed s b = { s with fcnt := .two, fTgt := b, nbytes := s.nbytes + 1 } := by simp [feed, hr, hc]

theorem feed_value (hr : s.run = .running) (hc : s.fcnt = .two) :
    feed s b =
      afterFrame (decodeFrame ⟨s.fOp, s.fTgt, b⟩) { s with fcnt := .zero, nbytes := s.nbytes + 1 } := by
  simp [feed, hr, hc]

end

theorem foldl_feed_pending {s : State} (hr : s.run = .restartPending) (bs : List Byte) : bs.foldl feed s = s := by
  induction bs with
  | nil => rfl
  | cons b bs ih => rw [List.foldl_cons, feed_pending b hr, ih]

theorem blockMoves_offered (s : State) (bs : List Byte) : (s.offered bs).blockMoves := .inl rfl

/-- A running block takes the byte offered. -/
theorem step_offered_cons {s : State} (hr : s.run = .running) (b : Byte) (bs : List Byte) :
    step (s.offered (b :: bs)) = .next ((feed s b).offered bs) := by
  have hb := blockMoves_offered s (b :: bs)
  cases hc : s.fcnt with
  | zero => rw [feed_opcode b hr hc]; exact step_opcode hb hr rfl hc
  | one => rw [feed_target b hr hc]; exact step_target hb hr rfl hc
  | two => rw [feed_value b hr hc]; exact (step_value hb hr rfl hc).trans (exec_eq_afterFrame _ _)

/-- After one step a byte the block is the fold; what it has not taken, if a restart is pending, still waits. -/
theorem runSteps_offered (s : State) (bs cs : List Byte) :
    ∃ left, runSteps bs.length (s.offered (bs ++ cs)) = .next ((bs.foldl feed s).offered (left ++ cs)) ∧
      ((bs.foldl feed s).run = .running → left = []) := by
  induction bs generalizing s with
  | nil => exact ⟨[], rfl, fun _ => rfl⟩
  | cons b bs ih =>
    cases hr : s.run with
    | running =>
      obtain ⟨left, hrun, hleft⟩ := ih (feed s b)
      exact ⟨left, (runSteps_succ bs.length (step_offered_cons hr b (bs ++ cs))).trans hrun, hleft⟩
    | restartPending =>
      rw [foldl_feed_pending hr]
      refine ⟨b :: bs, runSteps_idle (s := s.offered (b :: bs ++ cs)) rfl (.inl hr) _, fun h => ?_⟩
      rw [hr] at h
      cases h

theorem sameBlock_offered (s : State) (bs cs : List Byte) : SameBlock (s.offered bs) (s.offered cs) := by
  constructor <;> rfl

/-- Settles O40: the fold over both pieces is the fold over the second from the fold over the first. -/
theorem splittingTheStreamChangesNothing : Obligations.SplittingTheStreamChangesNothing := by
  intro s bs cs
  obtain ⟨left₁, h₁, -⟩ := runSteps_offered s bs []
  obtain ⟨left₂, h₂, -⟩ := runSteps_offered (bs.foldl feed s) cs []
  obtain ⟨left, h, -⟩ := runSteps_offered s (bs ++ cs) []
  rw [List.append_nil] at h₁ h₂ h
  rw [List.length_append, List.foldl_append] at h
  exact ⟨_, _, _, h₁, h₂, h, sameBlock_offered _ _ _⟩

/-- One byte moves the position by one; every third completes a frame, with its response. -/
theorem feed_counts {s : State} (hr : s.run = .running) (b : Byte) :
    (feed s b).nbytes = s.nbytes + 1 ∧
    frameCountVal (feed s b).fcnt = (frameCountVal s.fcnt + 1) % 3 ∧
    (feed s b).nframes = s.nframes + (frameCountVal s.fcnt + 1) / 3 ∧
    (feed s b).tx.length = s.tx.length + (frameCountVal s.fcnt + 1) / 3 := by
  cases hc : s.fcnt with
  | zero => simp [feed_opcode b hr hc, frameCountVal]
  | one => simp [feed_target b hr hc, frameCountVal]
  | two => simp [feed_value b hr hc, frameCountVal, afterFrame]

theorem foldl_feed_counts (s : State) (bs : List Byte) (hr : (bs.foldl feed s).run = .running) :
    (bs.foldl feed s).nbytes = s.nbytes + bs.length ∧
    frameCountVal (bs.foldl feed s).fcnt = (frameCountVal s.fcnt + bs.length) % 3 ∧
    (bs.foldl feed s).nframes = s.nframes + (frameCountVal s.fcnt + bs.length) / 3 ∧
    (bs.foldl feed s).tx.length = s.tx.length + (frameCountVal s.fcnt + bs.length) / 3 := by
  induction bs generalizing s with
  | nil => cases hc : s.fcnt <;> simp [hc, frameCountVal]
  | cons b bs ih =>
    cases hs : s.run with
    | restartPending =>
      rw [foldl_feed_pending hs, hs] at hr
      cases hr
    | running =>
      obtain ⟨hbytes, hcount, hframes, htx⟩ := feed_counts hs b
      obtain ⟨ihbytes, ihcount, ihframes, ihtx⟩ := ih (feed s b) hr
      rw [List.foldl_cons, List.length_cons]
      refine ⟨?_, ?_, ?_, ?_⟩ <;> omega

/-- Settles O39: `foldl_feed_counts` for the fold that the run is. -/
theorem alignmentIsPositional : Obligations.AlignmentIsPositional := by
  intro s bs
  obtain ⟨left, hrun, hleft⟩ := runSteps_offered s bs []
  rw [List.append_nil] at hrun
  refine ⟨_, hrun, fun hr => ⟨?_, foldl_feed_counts s bs hr⟩⟩
  rw [hleft hr]
  rfl

/-- The three bytes of a frame are its execution. -/
theorem foldl_feed_bytes {s : State} (f : Frame) (hr : s.run = .running) (hc : s.fcnt = .zero) :
    f.bytes.foldl feed s =
      afterFrame (decodeFrame f) { s with fOp := f.op, fTgt := f.tgt, nbytes := s.nbytes + 3 } := by
  obtain ⟨params, fcnt, fOp, fTgt, run, out, tx, ev, nbytes, nframes, rx, sched⟩ := s
  obtain rfl : run = .running := hr
  obtain rfl : fcnt = .zero := hc
  rfl

theorem foldl_feed_frames {s : State} (fs : List Frame) (hr : s.run = .running) (hc : s.fcnt = .zero)
    (hfs : ∀ f ∈ fs, f.op ≠ 0xFF) :
    ((frameBytes fs).foldl feed s).run = .running ∧ ((frameBytes fs).foldl feed s).fcnt = .zero ∧
    ((frameBytes fs).foldl feed s).tx = s.tx ++ fs.map (fun f => responseByte (responseOf (decodeFrame f))) ∧
    ((frameBytes fs).foldl feed s).nframes = s.nframes + fs.length ∧
    ((frameBytes fs).foldl feed s).nbytes = s.nbytes + 3 * fs.length := by
  induction fs generalizing s with
  | nil => simp [frameBytes, hr, hc]
  | cons f fs ih =>
    obtain ⟨hf, hrest⟩ := List.forall_mem_cons.mp hfs
    have hreset : (decodeFrame f).opcode? ≠ some .reset := mt opcode?_decodeFrame_eq_reset_iff.mp hf
    have hfold : (frameBytes (f :: fs)).foldl feed s = (frameBytes fs).foldl feed (f.bytes.foldl feed s) :=
      List.foldl_append
    rw [hfold, foldl_feed_bytes f hr hc]
    obtain ⟨hrun, hcount, htx, hframes, hbytes⟩ :=
      ih (s := afterFrame (decodeFrame f) { s with fOp := f.op, fTgt := f.tgt, nbytes := s.nbytes + 3 })
        ((if_neg hreset).trans hr) hc hrest
    refine ⟨hrun, hcount, htx.trans ?_, hframes.trans ?_, hbytes.trans ?_⟩
    · simp
    · simp only [afterFrame_nframes, List.length_cons]
      omega
    · simp only [afterFrame_nbytes, List.length_cons]
      omega

theorem length_frameBytes (fs : List Frame) : (frameBytes fs).length = 3 * fs.length := by
  have hframe (f : Frame) : f.bytes.length = 3 := rfl
  simp [frameBytes, List.length_flatMap, hframe, Nat.mul_comm]

/-- Settles O38: the run over the frames' bytes is the fold, and `foldl_feed_frames` says what it leaves. -/
theorem responsesAreFirstInFirstOut : Obligations.ResponsesAreFirstInFirstOut := by
  intro s fs rest hr hc hfs
  obtain ⟨hrun, hcount, htx, hframes, hbytes⟩ := foldl_feed_frames fs hr hc hfs
  obtain ⟨left, hsteps, hleft⟩ := runSteps_offered s (frameBytes fs) rest
  rw [hleft hrun, length_frameBytes] at hsteps
  exact ⟨_, hsteps, htx, rfl, hrun, hcount, hframes, hbytes⟩

/-- One frame offered in front of other bytes is executed in three steps, whichever it is. -/
theorem runSteps_frame {s : State} (f : Frame) (rest : List Byte) (hr : s.run = .running) (hc : s.fcnt = .zero) :
    runSteps 3 (s.offered (f.bytes ++ rest)) =
      .next ((afterFrame (decodeFrame f)
        { s with fOp := f.op, fTgt := f.tgt, nbytes := s.nbytes + 3 }).offered rest) := by
  have hr₁ : (feed s f.op).run = .running := by rw [feed_opcode _ hr hc]; exact hr
  have hc₁ : (feed s f.op).fcnt = .one := by rw [feed_opcode _ hr hc]
  have hr₂ : (feed (feed s f.op) f.tgt).run = .running := by rw [feed_target _ hr₁ hc₁]; exact hr₁
  rw [← foldl_feed_bytes f hr hc]
  exact (runSteps_succ 2 (step_offered_cons hr _ _)).trans
    ((runSteps_succ 1 (step_offered_cons hr₁ _ _)).trans (runSteps_succ 0 (step_offered_cons hr₂ _ _)))

/-- Settles O31: `runSteps_frame` executes RESET, and then the block is idle. -/
theorem nothingRunsBehindReset : Obligations.NothingRunsBehindReset := by
  intro s tgt val rest n hr hc
  have hframe := runSteps_frame ⟨0xFF, tgt, val⟩ rest hr hc
  exact ⟨_, (runSteps_add n hframe).trans (runSteps_idle rfl (.inl rfl) n), rfl, rfl, rfl, rfl, rfl, hc⟩

/-! No step reads EV. -/

theorem hostSend_with_ev (b : Byte) (s : State) (ev : List Event) :
    hostSend b { s with ev := ev } = { hostSend b s with ev := ev } := by
  unfold hostSend
  split <;> [rw [if_pos]; rw [if_neg]] <;> assumption

theorem step_with_ev (s : State) (ev : List Event) :
    ∃ t ev', step s = .next t ∧ step { s with ev := ev } = .next { t with ev := ev' } := by
  obtain ⟨t, ht, he⟩ := step_effect s
  cases he with
  | idle hb h => exact ⟨_, ev, ht, step_idle (s := { s with ev := ev }) hb h⟩
  | opcode hb hr hx hc => exact ⟨_, ev, ht, step_opcode (s := { s with ev := ev }) hb hr hx hc⟩
  | target hb hr hx hc => exact ⟨_, ev, ht, step_target (s := { s with ev := ev }) hb hr hx hc⟩
  | frame hb hr hx hc he =>
    obtain rfl := (exec_cases he).eq_afterFrame
    exact ⟨_, _, ht, (step_value (s := { s with ev := ev }) hb hr hx hc).trans (exec_eq_afterFrame _ _)⟩
  | @send b ts hs =>
    have hsend := step_send (s := { s with ev := ev }) hs
    exact ⟨_, ev, ht, hsend.trans (congrArg _ (hostSend_with_ev b { s with sched := ts } ev))⟩
  | rst hs => exact ⟨_, _, ht, step_rst (s := { s with ev := ev }) hs⟩

theorem runSteps_with_ev (k : Nat) (s : State) (ev : List Event) :
    ∃ t ev', runSteps k s = .next t ∧ runSteps k { s with ev := ev } = .next { t with ev := ev' } := by
  induction k generalizing s ev with
  | zero => exact ⟨s, ev, rfl, rfl⟩
  | succ k ih =>
    obtain ⟨u, ev₁, hu, hu'⟩ := step_with_ev s ev
    rw [runSteps_succ k hu, runSteps_succ k hu']
    exact ih u ev₁

/-- Settles O44: two errors from one state differ in the name that `protocolError` records; runs are
`runSteps_with_ev`. -/
theorem causesAreNamedInTheTraceOnly : Obligations.CausesAreNamedInTheTraceOnly := by
  refine ⟨fun s f g c d hf hg => ?_, runSteps_with_ev⟩
  exact ⟨protocolError c (countFrame s), exec_of_errorCause s (errorCause?_of_hasCause hf),
    exec_of_errorCause s (errorCause?_of_hasCause hg)⟩

end Sys2Proof.Machine
end

section
/-! PROOFS. The encoder's lines (30_encoding.md section 6): what each line with numeric operands sends, and that no line
sends an illegal opcode or a nonzero unused field. -/

namespace Sys2Proof.Machine

theorem truncatedByte_eq (n : Nat) : truncatedByte n = BitVec.ofNat 8 (n % 256) := by
  apply BitVec.eq_of_toNat_eq
  simp [truncatedByte]

/-- A line of a keyword and one number. -/
theorem tokens_keyword_number {k : List Char} (hk : IsToken k) (n : Nat) :
    tokens (k ++ ' ' :: Nat.toDigits 10 n) = [k, Nat.toDigits 10 n] := by
  rw [tokens_append_space hk, tokens_of_isToken (isToken_toDigits n)]

/-- A line of a keyword and two numbers. -/
theorem tokens_keyword_numbers {k : List Char} (hk : IsToken k) (m n : Nat) :
    tokens (k ++ ' ' :: (Nat.toDigits 10 m ++ ' ' :: Nat.toDigits 10 n)) =
      [k, Nat.toDigits 10 m, Nat.toDigits 10 n] := by
  rw [tokens_append_space hk, tokens_keyword_number (isToken_toDigits m)]

theorem assemble_servo (n : Nat) :
    assemble (['s', 'e', 'r', 'v', 'o', ' '] ++ Nat.toDigits 10 n) = .frame ⟨0x03, 0x00, truncatedByte n⟩ := by
  have hservo : IsToken ['s', 'e', 'r', 'v', 'o'] := ⟨by decide, by simp [isSpace]⟩
  have hline : ['s', 'e', 'r', 'v', 'o', ' '] ++ Nat.toDigits 10 n =
    ['s', 'e', 'r', 'v', 'o'] ++ ' ' :: Nat.toDigits 10 n := rfl
  rw [hline, assemble, tokens_keyword_number hservo]
  simp [assembleTokens, decimal?_toDigits, frameOrUnrecognized, Opcode.byte]

theorem assemble_pwm (m n : Nat) :
    assemble (['p', 'w', 'm', ' '] ++ Nat.toDigits 10 m ++ [' '] ++ Nat.toDigits 10 n) =
      .frame ⟨0x01, truncatedByte m, truncatedByte n⟩ := by
  have hpwm : IsToken ['p', 'w', 'm'] := ⟨by decide, by simp [isSpace]⟩
  have hline : ['p', 'w', 'm', ' '] ++ Nat.toDigits 10 m ++ [' '] ++ Nat.toDigits 10 n =
      ['p', 'w', 'm'] ++ ' ' :: (Nat.toDigits 10 m ++ ' ' :: Nat.toDigits 10 n) := by simp
  rw [hline, assemble, tokens_keyword_numbers hpwm]
  simp [assembleTokens, decimal?_toDigits, frameOrUnrecognized, Opcode.byte]

/-- `digital` sends its pin number as the lookup gives it (R59). -/
theorem assemble_digital (m n : Nat) :
    assemble (['d', 'i', 'g', 'i', 't', 'a', 'l', ' '] ++ Nat.toDigits 10 m ++ [' '] ++ Nat.toDigits 10 n) =
      .frame ⟨0x02, truncatedByte (pinLookup m), truncatedByte n⟩ := by
  have hdigital : IsToken ['d', 'i', 'g', 'i', 't', 'a', 'l'] := ⟨by decide, by simp [isSpace]⟩
  have hline : ['d', 'i', 'g', 'i', 't', 'a', 'l', ' '] ++ Nat.toDigits 10 m ++ [' '] ++ Nat.toDigits 10 n =
      ['d', 'i', 'g', 'i', 't', 'a', 'l'] ++ ' ' :: (Nat.toDigits 10 m ++ ' ' :: Nat.toDigits 10 n) := by simp
  rw [hline, assemble, tokens_keyword_numbers hdigital]
  simp [assembleTokens, decimal?_toDigits, frameOrUnrecognized, Opcode.byte]

theorem pinLookup_of_not_mem {p : Nat} (h : p ∉ [11, 12, 21, 22, 31, 32, 41, 42]) : pinLookup p = p := by
  unfold pinLookup
  split <;> simp_all

/-- Settles O41: each line by its own lemma, `digital` past the lookup. -/
theorem numericOperandsAreTruncated : Obligations.NumericOperandsAreTruncated := by
  intro m n
  simp only [← truncatedByte_eq]
  refine ⟨assemble_pwm m n, assemble_servo n, assemble_neo_toDigits n, fun hm => ?_⟩
  rw [assemble_digital, pinLookup_of_not_mem hm]

/-- The lookup's entries are the tags, decimal digits for nibbles (R59). -/
theorem pinLookup_tag (g : Tag) :
    pinLookup (10 * motorIndex g.motor + terminalIndex g.terminal) =
      16 * motorIndex g.motor + terminalIndex g.terminal := by
  obtain ⟨m, e⟩ := g
  cases m <;> cases e <;> rfl

theorem map_pinNumber_allTags :
    allTags.map (fun g => 10 * motorIndex g.motor + terminalIndex g.terminal) = [11, 12, 21, 22, 31, 32, 41, 42] := by
  decide

/-- Settles O42: `assemble_digital`, whose lookup finds the tags' numbers and no others. -/
theorem digitalPinsAreLookedUp : Obligations.DigitalPinsAreLookedUp := by
  refine ⟨fun g n => ?tag, fun p n hp => ?other⟩
  case tag =>
    rw [assemble_digital, pinLookup_tag, truncatedByte_eq n]
    rfl
  case other =>
    have hmem : p ∉ [11, 12, 21, 22, 31, 32, 41, 42] := by
      rw [← map_pinNumber_allTags, List.mem_map]
      rintro ⟨g, -, hg⟩
      exact hp g hg.symm
    rw [assemble_digital, pinLookup_of_not_mem hmem, truncatedByte_eq, truncatedByte_eq]

/-! What a line can send. -/

/-- A frame of one of the six opcodes, with 0x00 in the fields that the opcode does not use (R58). -/
def Conventional (f : Frame) : Prop :=
  f.op ∈ ([0x01, 0x02, 0x03, 0x04, 0xF0, 0xFF] : List Byte) ∧
  (f.op = 0x03 ∨ f.op = 0x04 → f.tgt = 0x00) ∧
  (f.op = 0xF0 ∨ f.op = 0xFF → f.tgt = 0x00 ∧ f.val = 0x00)

theorem frameOrUnrecognized_eq_frame {o : Option Frame} {f : Frame} :
    frameOrUnrecognized o = .frame f ↔ o = some f := by
  cases o <;> simp [frameOrUnrecognized]

/-- The rows of R58, each with its own frame. -/
theorem conventional_of_assembleTokens {toks : List (List Char)} {f : Frame} (h : assembleTokens toks = .frame f) :
    Conventional f := by
  unfold assembleTokens at h
  split at h
  next => cases h
  next =>
    split_ifs at h
    · obtain rfl := AsmResult.frame.inj h
      simp [Conventional, Opcode.byte]
    · obtain rfl := AsmResult.frame.inj h
      simp [Conventional, Opcode.byte]
  next =>
    split_ifs at h
    · obtain ⟨n, -, rfl⟩ := Option.map_eq_some_iff.mp (frameOrUnrecognized_eq_frame.mp h)
      simp [Conventional, Opcode.byte]
    · obtain ⟨n, -, rfl⟩ := Option.map_eq_some_iff.mp (frameOrUnrecognized_eq_frame.mp h)
      simp [Conventional, Opcode.byte]
  next =>
    split_ifs at h
    · obtain ⟨m, -, hm⟩ := Option.bind_eq_some_iff.mp (frameOrUnrecognized_eq_frame.mp h)
      obtain ⟨n, -, rfl⟩ := Option.map_eq_some_iff.mp hm
      simp [Conventional, Opcode.byte]
    · obtain ⟨m, -, hm⟩ := Option.bind_eq_some_iff.mp (frameOrUnrecognized_eq_frame.mp h)
      obtain ⟨n, -, rfl⟩ := Option.map_eq_some_iff.mp hm
      simp [Conventional, Opcode.byte]
  next => cases h

/-- Settles O43: whatever the tokens of the line are, `conventional_of_assembleTokens`. -/
theorem textGivesOnlyConventionalFrames : Obligations.TextGivesOnlyConventionalFrames := fun _ _ h =>
  conventional_of_assembleTokens h

end Sys2Proof.Machine
end

section
/-! PROOFS. The number of frames that raise no error (30_encoding.md section 4): the accepted frames are a disjoint
union of products, one of them for each group of opcodes with the same operand check. -/

namespace Sys2Proof.Machine

/-- The bytes of a list, as the numbers that the count ranges over. -/
def codes (bs : List Byte) : Finset (Fin 256) := (bs.map BitVec.toFin).toFinset

theorem mem_codes {bs : List Byte} {x : Fin 256} : x ∈ codes bs ↔ BitVec.ofFin x ∈ bs := by
  rw [codes, List.mem_toFinset, List.mem_map]
  constructor
  · rintro ⟨b, hb, rfl⟩
    exact hb
  · exact fun h => ⟨_, h, rfl⟩

/-- The frames with an opcode of a list and each operand in a set. -/
def frameBox (ops : List Byte) (tgts vals : Finset (Fin 256)) : Finset (Fin 256 × Fin 256 × Fin 256) :=
  codes ops ×ˢ tgts ×ˢ vals

theorem mem_frameBox {ops : List Byte} {tgts vals : Finset (Fin 256)} {w : Fin 256 × Fin 256 × Fin 256} :
    w ∈ frameBox ops tgts vals ↔ BitVec.ofFin w.1 ∈ ops ∧ w.2.1 ∈ tgts ∧ w.2.2 ∈ vals := by
  rw [frameBox, Finset.mem_product, Finset.mem_product, mem_codes]

theorem card_frameBox (ops : List Byte) (tgts vals : Finset (Fin 256)) :
    (frameBox ops tgts vals).card = (codes ops).card * (tgts.card * vals.card) := by
  rw [frameBox, Finset.card_product, Finset.card_product]

theorem disjoint_frameBox {ops ops' : List Byte} (h : Disjoint (codes ops) (codes ops'))
    (tgts vals tgts' vals' : Finset (Fin 256)) :
    Disjoint (frameBox ops tgts vals) (frameBox ops' tgts' vals') :=
  Finset.disjoint_product.mpr (.inl h)

/-- A check that raises one cause accepts what it does not reject. -/
theorem errorCause?_eq_none_iff_of_check {i : Instr} {k : ErrorCause} {p : Prop}
    (h : ∀ {c}, errorCause? i = some c ↔ c = k ∧ ¬ p) : errorCause? i = none ↔ p := by
  simp [Option.eq_none_iff_forall_ne_some, h]

/-- The accepted operands of each opcode (30_encoding.md R52, R53); SERVO, PING and RESET accept every byte. -/
theorem errorCause?_eq_none_iff {i : Instr} (hwf : i.wellFormed = true) :
    errorCause? i = none ↔
      (i.frame.op = 0x01 ∧ i.frame.tgt ∈ ([0x01, 0x02, 0x03, 0x04] : List Byte)) ∨
      (i.frame.op = 0x02 ∧ i.frame.tgt ∈ ([0x11, 0x12, 0x21, 0x22, 0x31, 0x32, 0x41, 0x42] : List Byte)) ∨
      (i.frame.op = 0x04 ∧ i.frame.val ∈ ([0x00, 0x01, 0x02, 0x03, 0xFF] : List Byte)) ∨
      i.frame.op ∈ ([0x03, 0xF0, 0xFF] : List Byte) := by
  cases i with
  | pwm => simp [errorCause?_eq_none_iff_of_check errorCause?_pwm, Instr.frame, Opcode.byte]
  | digital => simp [errorCause?_eq_none_iff_of_check errorCause?_digital, Instr.frame, Opcode.byte]
  | neopixel => simp [errorCause?_eq_none_iff_of_check errorCause?_neopixel, Instr.frame, Opcode.byte]
  | servo | ping | reset => simp [errorCause?, Instr.frame, Opcode.byte]
  | illegal => simp_all [errorCause?, Instr.frame, Instr.wellFormed, definedOpcodes]

/-- The frames that raise no error. -/
theorem acceptedFrames_eq :
    (Finset.univ.filter fun w : Fin 256 × Fin 256 × Fin 256 =>
      errorCause? (decodeFrame ⟨BitVec.ofFin w.1, BitVec.ofFin w.2.1, BitVec.ofFin w.2.2⟩) = none) =
      frameBox [0x01] (codes [0x01, 0x02, 0x03, 0x04]) Finset.univ ∪
      (frameBox [0x02] (codes [0x11, 0x12, 0x21, 0x22, 0x31, 0x32, 0x41, 0x42]) Finset.univ ∪
      (frameBox [0x04] Finset.univ (codes [0x00, 0x01, 0x02, 0x03, 0xFF]) ∪
      frameBox [0x03, 0xF0, 0xFF] Finset.univ Finset.univ)) := by
  ext w
  rw [Finset.mem_filter_univ, errorCause?_eq_none_iff (wellFormed_decodeFrame _), frame_decodeFrame]
  simp only [Finset.mem_union, mem_frameBox, mem_codes, List.mem_singleton, Finset.mem_univ, and_true, true_and]

/-- Settles O6: 1 * 4 * 256 for PWM, 1 * 8 * 256 for DIGITAL, 1 * 256 * 5 for NEOPIXEL and 3 * 256 * 256 for the opcodes
without a check. -/
theorem countOfAcceptedFrames : Obligations.CountOfAcceptedFrames := by
  obtain ⟨hpd, hpn, hpu⟩ : Disjoint (codes [0x01]) (codes [0x02]) ∧ Disjoint (codes [0x01]) (codes [0x04]) ∧
      Disjoint (codes [0x01]) (codes [0x03, 0xF0, 0xFF]) := by decide
  obtain ⟨hdn, hdu⟩ : Disjoint (codes [0x02]) (codes [0x04]) ∧
      Disjoint (codes [0x02]) (codes [0x03, 0xF0, 0xFF]) := by decide
  have hnu : Disjoint (codes [0x04]) (codes [0x03, 0xF0, 0xFF]) := by decide
  rw [Obligations.CountOfAcceptedFrames, acceptedFrames_eq, Finset.card_union_of_disjoint,
    Finset.card_union_of_disjoint, Finset.card_union_of_disjoint]
  · simp only [card_frameBox, Finset.card_univ, Fintype.card_fin]
    rfl
  all_goals simp only [Finset.disjoint_union_right, disjoint_frameBox, hpd, hpn, hpu, hdn, hdu, hnu, and_self]

end Sys2Proof.Machine
end
